-- ==== Sys2Proof/Word.lean ====
section
/-! DEFINITION. The two widths of the engine: a byte (8 bits) and a register or command word (16 bits)
(`00_scope.md` R3, R4; `10_state.md` R11). Both are plain bit vectors: every value is unsigned, and bit 0 is the
least significant one. -/

namespace Sys2Proof

/-- A byte: a buffer cell, a channel byte, a slave id, a function code (`00_scope.md` R3, R4). -/
abbrev Byte := BitVec 8

/-- A 16-bit word: the width of the host port, of the command word and of the CRC (`10_state.md` R11). -/
abbrev Word := BitVec 16

end Sys2Proof
end

