-- ==== Sys2Proof/Syntax.lean ====
section
/-! DEFINITION. The command set, complete (`30_encoding.md` R67): one constructor per row of
`spec/opcode_table.json`. The one operand a command word carries is the immediate byte of CRC.UPD; all other
operands of all commands come from the named registers and buffers (`30_encoding.md` R66, `10_state.md` R12). -/

namespace Sys2Proof

/-- The ten commands the host writes to CMD (`30_encoding.md` R67). -/
inductive Instr where
  /-- NOP, word 0x0000 (`44_system.md` R140). -/
  | nop
  /-- CLR, word 0x0001 (`44_system.md` R141). -/
  | clr
  /-- CRC.INIT, word 0x0010 (`40_crc_unit.md` R93). -/
  | crcInit
  /-- CRC.UPD imm8, words 0x..11 (`40_crc_unit.md` R94). -/
  | crcUpd (imm8 : Byte)
  /-- BLD.RDH, word 0x0020 (`41_frame_build.md` R101). -/
  | bldRdh
  /-- BLD.RDI, word 0x0021 (`41_frame_build.md` R102). -/
  | bldRdi
  /-- BLD.WSR, word 0x0022 (`41_frame_build.md` R103). -/
  | bldWsr
  /-- BLD.CUS, word 0x0023 (`41_frame_build.md` R104). -/
  | bldCus
  /-- PARSE, word 0x0030 (`42_frame_parse.md` R111). -/
  | parse
  /-- XFER, word 0x0040 (`43_transaction.md` R121). -/
  | xfer
  deriving DecidableEq, Repr

end Sys2Proof
end

