-- ==== Sys2Proof/WellFormed.lean ====
section
/-! DEFINITION. Which pairs of fields (op, imm8) are the fields of a command (`30_encoding.md` R66, R67), and that
check applied to an instruction. The type of `Instr` already keeps the immediate of CRC.UPD to a byte, so what is
left to check is a pair of raw fields: the op is one of the ten, and a format Z row has `imm8 = 0x00`. -/

namespace Sys2Proof

/-- The ops of the rows of format Z (`30_encoding.md` R67). -/
def zeroOperandOps : List Byte := [0x00, 0x01, 0x10, 0x20, 0x21, 0x22, 0x23, 0x30, 0x40]

/-- Check 1: the op is one of the ten of `30_encoding.md` R67. -/
def opKnown (op : Byte) : Bool := op == 0x11 || zeroOperandOps.contains op

/-- Check 2: `imm8` is 0x00 unless the row is of format I, which only CRC.UPD is (`30_encoding.md` R66). -/
def immAllowed (op imm8 : Byte) : Bool := op == 0x11 || imm8 == 0x00

/-- The fields of a command word that is not reserved (`30_encoding.md` R66, R67, R68). -/
def fieldsWellFormed (op imm8 : Byte) : Bool := opKnown op && immAllowed op imm8

/-- The op of each command (`30_encoding.md` R67). -/
def Instr.op : Instr → Byte
  | .nop => 0x00
  | .clr => 0x01
  | .crcInit => 0x10
  | .crcUpd _ => 0x11
  | .bldRdh => 0x20
  | .bldRdi => 0x21
  | .bldWsr => 0x22
  | .bldCus => 0x23
  | .parse => 0x30
  | .xfer => 0x40

/-- The immediate of each command (`30_encoding.md` R66, R69). -/
def Instr.imm : Instr → Byte
  | .nop => 0x00
  | .clr => 0x00
  | .crcInit => 0x00
  | .crcUpd b => b
  | .bldRdh => 0x00
  | .bldRdi => 0x00
  | .bldWsr => 0x00
  | .bldCus => 0x00
  | .parse => 0x00
  | .xfer => 0x00

/-- An instruction is well formed when its two fields are those of a command. -/
def Instr.wellFormed (i : Instr) : Bool := fieldsWellFormed i.op i.imm

end Sys2Proof
end

