-- ==== Sys2Proof/Decode.lean ====
section
/-! DEFINITION. The command word (`30_encoding.md` R65 to R69): the table of rows by match and mask, the decoder
(total on 16-bit words, a reserved word refused by name), the encoder, and the host's view of the decoder
(`decodeTableWord`). The host port moves one whole word (`20_memory.md` R43), so no byte order enters. -/

namespace Sys2Proof

/-- `op = w[7:0]` (`30_encoding.md` R65). -/
def opField (w : Word) : Byte := w.extractLsb' 0 8

/-- `imm8 = w[15:8]`, an unsigned byte, not scaled (`30_encoding.md` R65, R69). -/
def immField (w : Word) : Byte := w.extractLsb' 8 8

/-- A row of the command table: its match and mask, and the instruction its words stand for, given their
immediate field (`30_encoding.md` R67). -/
structure Row where
  pattern : Word
  mask : Word
  build : Byte → Instr

/-- `(w and mask) = match` (`30_encoding.md` R67). -/
def Row.accepts (r : Row) (w : Word) : Bool := (w &&& r.mask) == r.pattern

/-- The command set, complete, in the order of `30_encoding.md` R67. -/
def commandTable : List Row :=
  [ ⟨0x0000, 0xFFFF, fun _ => .nop⟩,
    ⟨0x0001, 0xFFFF, fun _ => .clr⟩,
    ⟨0x0010, 0xFFFF, fun _ => .crcInit⟩,
    ⟨0x0011, 0x00FF, fun b => .crcUpd b⟩,
    ⟨0x0020, 0xFFFF, fun _ => .bldRdh⟩,
    ⟨0x0021, 0xFFFF, fun _ => .bldRdi⟩,
    ⟨0x0022, 0xFFFF, fun _ => .bldWsr⟩,
    ⟨0x0023, 0xFFFF, fun _ => .bldCus⟩,
    ⟨0x0030, 0xFFFF, fun _ => .parse⟩,
    ⟨0x0040, 0xFFFF, fun _ => .xfer⟩ ]

/-- Why a word is reserved (`30_encoding.md` R68): its op is none of the ten, or it is a format Z op with a
non-zero immediate. -/
inductive DecodeError where
  | unknownOp (op : Byte)
  | nonzeroImm (op imm8 : Byte)
  deriving DecidableEq, Repr

/-- The name under which a word that matches no row is refused (`30_encoding.md` R68). -/
def reservedReason (w : Word) : DecodeError :=
  if opKnown (opField w) then .nonzeroImm (opField w) (immField w) else .unknownOp (opField w)

/-- The decoder: the row the word matches, or the reason why it is reserved (`30_encoding.md` R67, R68). -/
def decode (w : Word) : Except DecodeError Instr :=
  match commandTable.find? (fun r => r.accepts w) with
  | some r => .ok (r.build (immField w))
  | none => .error (reservedReason w)

/-- The word of each command, from the match column and, for CRC.UPD, from `w = (b << 8) or 0x0011`
(`30_encoding.md` R67, `40_crc_unit.md` R94). -/
def encode : Instr → Word
  | .nop => 0x0000
  | .clr => 0x0001
  | .crcInit => 0x0010
  | .crcUpd b => (b.zeroExtend 16 <<< 8) ||| 0x0011
  | .bldRdh => 0x0020
  | .bldRdi => 0x0021
  | .bldWsr => 0x0022
  | .bldCus => 0x0023
  | .parse => 0x0030
  | .xfer => 0x0040

/-- The command word made of the low `nbits` bits of `w`; a command has one length, 16 bits (`30_encoding.md`
R65), so a number that does not fit in 16 bits is no command word. -/
def tableWord (nbits w : Nat) : Option Word :=
  if w % 2 ^ nbits < 65536 then some (BitVec.ofNat 16 (w % 2 ^ nbits)) else none

/-- The instruction the decoder reads from the bits `w` of an opcode-table row of `nbits` bits. -/
def decodeTableWord (nbits w : Nat) : Option Instr :=
  match tableWord nbits w with
  | none => none
  | some v =>
    match decode v with
    | .ok i => some i
    | .error _ => none

end Sys2Proof
end

