-- ==== Sys2Proof/Config.lean ====
section
/-! DEFINITION. The parameters of `00_scope.md` R2: those the source fixes as constants, those the spec decides as
the fields of one configuration with the spec's values as defaults, and those it leaves open (HOSTMAP, the channel's
parameters) as fields whose value no proof can see; the three buffer spaces with their capacities; and the free
values of the model, the bytes the spec leaves unspecified (`10_state.md` R36, `20_memory.md` R48). -/

namespace Sys2Proof

/-- The three byte buffers (`10_state.md` R28 to R31). -/
inductive Buffer where
  | paybuf
  | txbuf
  | rxbuf
  deriving DecidableEq, Repr

namespace Config

/-! ### The parameters the source fixes -/

/-- CRC_POLY, the XOR constant of the shift step (`00_scope.md` R2). -/
abbrev crcPoly : Word := 0xA001

/-- CRC_INIT, the initial CRC value (`00_scope.md` R2). -/
abbrev crcInit : Word := 0xFFFF

/-- FC_READ_A, the function code BLD.RDH builds with (`00_scope.md` R2, `41_frame_build.md` R101). -/
abbrev fcReadA : Byte := 0x03

/-- FC_READ_B, the function code BLD.RDI builds with (`00_scope.md` R2, `41_frame_build.md` R102). -/
abbrev fcReadB : Byte := 0x04

/-- FC_WRITE_SINGLE, the function code BLD.WSR builds with (`00_scope.md` R2, `41_frame_build.md` R103). -/
abbrev fcWriteSingle : Byte := 0x06

/-- EXC_BIT, the exception bit of the function-code byte (`00_scope.md` R2). -/
abbrev excBit : Byte := 0x80

/-- MIN_FRAME, the shortest response that is not Malformed (`00_scope.md` R2). -/
abbrev minFrame : Nat := 4

/-! ### The configuration -/

/-- What an address of a platform's bus can name: a register by number, or one byte of a buffer (`10_state.md` R31,
`20_memory.md` R53). -/
inductive Location where
  | register (n : Nat)
  | cell (S : Buffer) (i : Nat)
  deriving DecidableEq, Repr

/-- HOSTMAP: how register numbers and buffer indexes map onto a platform's byte-addressed bus, and the byte order the
platform chooses for a register access (`00_scope.md` R2, `20_memory.md` R43). -/
structure HostMap where
  /-- What the byte address names, if anything. -/
  locate : Nat → Option Location
  /-- Whether the byte at the lower address is the least significant one of a register. -/
  lowByteFirst : Bool
  deriving Inhabited

/-- The channel's parameters, which belong to its external owner (`00_scope.md` R2, `60_exceptions.md` R168). The
spec gives no value and no notation for any of them, so each is the owner's own word for it. -/
structure Channel where
  port : String
  baud : String
  parity : String
  stopBits : String
  deriving Inhabited

/-- FREE VALUE (log entry 17). The platform's map, OPEN in `00_scope.md` R2. No body: no proof can see it. -/
opaque openHostMap : HostMap

/-- FREE VALUE (log entry 22). The channel's parameters, OPEN in `00_scope.md` R2. No body: no proof can see them. -/
opaque openChannel : Channel

/-- The configuration: the parameters of `00_scope.md` R2 that the source does not fix once for all, under their
names, each with the default R2 states (log entry 16). -/
structure Params where
  /-- MAXADU, the capacity of TXBUF and RXBUF (decision D2). -/
  maxAdu : Nat := 256
  /-- MAXPAY, the capacity of PAYBUF (decision D2). -/
  maxPay : Nat := maxAdu - 4
  /-- RDMAX, the `maxBytes` argument of the channel read (decision D13). -/
  rdMax : Nat := maxAdu
  /-- SETTLE_DEFAULT, the reset value of SETTLE in ticks. -/
  settleDefault : Word := 100
  /-- TICK, the period of the time base in milliseconds (decision D14); no rule depends on it (log entry 14). -/
  tickMs : Nat := 1
  /-- HOSTMAP (decision D19); read by the accesses of a platform's bus alone (log entry 17). -/
  hostMap : HostMap := openHostMap
  /-- The channel's parameters (decision D26); the engine's rules hold for any value (`60_exceptions.md` R168). -/
  channel : Channel := openChannel

/-- The configuration of this machine: every parameter at its default. -/
@[reducible] def params : Params := {}

/-- MAXADU of this machine. -/
abbrev maxAdu : Nat := params.maxAdu

/-- MAXPAY of this machine. -/
abbrev maxPay : Nat := params.maxPay

/-- RDMAX of this machine. -/
abbrev rdMax : Nat := params.rdMax

/-- SETTLE_DEFAULT of this machine. -/
abbrev settleDefault : Word := params.settleDefault

/-- The capacity in bytes of each buffer (`10_state.md` R28, R29, R30). -/
def capacity : Buffer → Nat
  | .paybuf => maxPay
  | .txbuf => maxAdu
  | .rxbuf => maxAdu

/-! ### The free values of the buffers -/

/-- FREE VALUE (log entry 6). The byte that stands at index `i` of buffer `S` while nothing has written it since
the reset numbered `resets`: "unspecified: any byte values" (`10_state.md` R36). No body: no proof can see it. -/
opaque unspecifiedByte (resets : Nat) (S : Buffer) (i : Nat) : Byte

/-- FREE VALUE (log entry 7). What a host read of a byte at or above the buffer's length register returns, the
`draw`-th such read: "an unspecified value ... a model returns any byte" (`20_memory.md` R48). No body. -/
opaque staleRead (draw : Nat) (S : Buffer) (i : Nat) : Byte

end Config

end Sys2Proof
end

