-- ==== Sys2Proof/Machine/State.lean ====
section
/-! DEFINITION. The state of the machine as plain data: the engine's registers, flags, buffers and hidden counter
(`10_state.md` R10 to R32), the channel and input levels of its environment (R33, `70_reset_and_hazards.md`
R175), and the model's own fields (which agent steps next, what the host will do next, what it last read, two
counters for free values). With it the reasons a step can stop, and the state right after reset (R36). -/

namespace Sys2Proof.Machine

/-- PHASE, the position in the transaction sequence (`10_state.md` R14). The values 6 and 7 of the 3-bit field
are never taken, so they have no constructor (log entry 15). -/
inductive Phase where
  | idle
  | flush
  | send
  | settle
  | read
  | parse
  deriving DecidableEq, Repr

/-- OUTCOME.KIND, the outcome kinds in the order of their codes 0 to 8 (`60_exceptions.md` R150). The codes 9 to
15 are never written, so they have no constructor (log entry 15). -/
inductive Kind where
  | noOutcome
  | payload
  | emptyResponse
  | malformed
  | crcMismatch
  | slaveIdMismatch
  | driverException
  | functionCodeMismatch
  | channelNotOpen
  deriving DecidableEq, Repr

/-- The sixteen host-addressable registers by name (`10_state.md` R11); `reserved` is register 15. -/
inductive RegName where
  | cmd
  | status
  | outcome
  | sid
  | fc
  | addr
  | data
  | plen
  | txlen
  | esid
  | efc
  | rxlen
  | paylen
  | settle
  | crcr
  | reserved
  deriving DecidableEq, Repr

/-- One line of a host script (`30_encoding.md` R86): a host access (`20_memory.md` R44 to R49), its register
number or buffer index as the host gives it, or WAIT. -/
inductive HostOp where
  /-- `HostRead(REG, n)`. -/
  | readReg (n : Nat)
  /-- `HostWrite(REG, n, v)`; a write of register 0 (CMD) is a command. -/
  | writeReg (n : Nat) (v : Word)
  /-- `HostRead(S, i)`. -/
  | readBuf (S : Buffer) (i : Nat)
  /-- `HostWrite(S, i, b)`. -/
  | writeBuf (S : Buffer) (i : Nat) (b : Byte)
  /-- `WAIT`: read STATUS until bit 0 (BUSY) is 0, one read a turn. -/
  | wait
  deriving DecidableEq, Repr

/-- One turn of the total order in which the agents' atomic steps interleave (`00_scope.md` R6): whose turn it
is, with the data the agent brings. An agent that has no enabled step lets its turn pass (log entry 3). -/
inductive Turn where
  /-- The host makes its next access (`20_memory.md` R44 to R49). -/
  | host
  /-- The engine takes its phase step (`43_transaction.md` R122 to R126). -/
  | engine
  /-- The time base ticks (`60_exceptions.md` R161). -/
  | tick
  /-- The remote appends bytes to CHIN (`60_exceptions.md` R167). -/
  | remote (bytes : List Byte)
  /-- The channel owner sets the level `ch_open` (`60_exceptions.md` R163). -/
  | owner (level : Bool)
  /-- The reset input is asserted or released (`70_reset_and_hazards.md` R175). -/
  | reset (asserted : Bool)
  deriving DecidableEq, Repr

/-- Why the machine stops with a fault. -/
inductive Fault where
  /-- A `MemRead(S, i, n)` or `MemWrite(S, i, n, v)` with `i + n` above the capacity of `S`, which
  `00_scope.md` R5 rules out. Raised by `memRead` and `memWrite`, that is by BLD.CUS, PARSE and the SEND, READ and
  PARSE steps, only in states that break `10_state.md` R37 (b), (c) or (d), which no run reaches. SAFE: the
  machine stops where the spec gives no meaning (log entry 10). -/
  | bufferRange (S : Buffer) (i n : Nat)
  deriving DecidableEq, Repr

/-- Why a step has no meaning. -/
inductive Refusal where
  /-- An instruction that has no meaning in this model yet: raised by `exec` alone. SAFE. -/
  | notModelled (mnemonic : String)
  /-- A host access to a register number above 15, which names no location: "The model refuses it (the access
  has no step)" (`20_memory.md` R54). Raised by the host's register reads and writes. SAFE. -/
  | noSuchRegister (n : Nat)
  /-- A host access to a buffer index at or above the buffer's capacity (`20_memory.md` R54). Raised by the
  host's buffer reads and writes. SAFE. -/
  | noSuchByte (S : Buffer) (i : Nat)
  deriving DecidableEq, Repr

/-- The bytes of one buffer that something has written since reset: index and byte, indexes strictly rising.
An index that is not listed holds no byte the model knows (log entry 6). -/
abbrev Memory := List Host.Cell

/-- The machine: engine, environment, and the model's own fields. -/
structure State where
  /-- STATUS.BUSY (`10_state.md` R15, R16). -/
  busy : Bool
  /-- STATUS.DONE (`10_state.md` R15, R17). -/
  done : Bool
  /-- STATUS.ERR (`10_state.md` R15, R18). -/
  err : Bool
  /-- STATUS.PHASE (`10_state.md` R14). -/
  phase : Phase
  /-- OUTCOME.KIND (`10_state.md` R20). -/
  kind : Kind
  /-- OUTCOME.EXC (`10_state.md` R20). -/
  exc : Byte
  /-- SID, register 3 (`10_state.md` R11). -/
  sid : Byte
  /-- FC, register 4 (`10_state.md` R11). -/
  fc : Byte
  /-- ADDR, register 5 (`10_state.md` R11). -/
  addr : Word
  /-- DATA, register 6 (`10_state.md` R11). -/
  data : Word
  /-- PLEN, register 7 (`10_state.md` R11). -/
  plen : Word
  /-- TXLEN, register 8 (`10_state.md` R22). -/
  txlen : Word
  /-- ESID, register 9 (`10_state.md` R11). -/
  esid : Byte
  /-- EFC, register 10 (`10_state.md` R11). -/
  efc : Byte
  /-- RXLEN, register 11 (`10_state.md` R23). -/
  rxlen : Word
  /-- PAYLEN, register 12 (`10_state.md` R21). -/
  paylen : Word
  /-- SETTLE, register 13 (`10_state.md` R24). -/
  settle : Word
  /-- CRCR, register 14 (`10_state.md` R25). -/
  crcr : Word
  /-- PAYBUF, 252 bytes (`10_state.md` R28). -/
  paybuf : Memory
  /-- TXBUF, 256 bytes (`10_state.md` R29). -/
  txbuf : Memory
  /-- RXBUF, 256 bytes (`10_state.md` R30). -/
  rxbuf : Memory
  /-- SCNT, the settle counter (`10_state.md` R32). -/
  scnt : Word
  /-- CHIN, the channel's receive queue, oldest byte first (`10_state.md` R33). -/
  chin : List Byte
  /-- WIRE, the byte sequences the engine has written, oldest first (`10_state.md` R33). -/
  wire : List (List Byte)
  /-- The input level `ch_open` (`10_state.md` R33, `60_exceptions.md` R163). -/
  chOpen : Bool
  /-- The level of the reset input, true while it is asserted (`70_reset_and_hazards.md` R175). -/
  resetLine : Bool
  /-- The model's own: the accesses the host has still to make, in its order (log entry 4). -/
  prog : List HostOp
  /-- The model's own: whose turns come next in the total order (log entries 1 and 2). -/
  turns : List Turn
  /-- The model's own: what the host's last read returned (log entry 5). -/
  readData : Word
  /-- The model's own: how many changes of the reset input there have been, the first argument of
  `Config.unspecifiedByte` (log entry 6). -/
  resets : Nat
  /-- The model's own: how many unspecified bytes host reads have returned, the first argument of
  `Config.staleRead` (log entry 7). -/
  draws : Nat
  deriving DecidableEq, Repr

/-- What a step, an access or a command answers. -/
abbrev Result := Host.Outcome State Fault Refusal

/-- The machine right after reset: the table of `10_state.md` R36. The environment's fields, which reset does not
change, stand at the values log entries 4, 5, 6, 7 and 8 name. -/
def State.reset : State :=
  { busy := false
    done := false
    err := false
    phase := .idle
    kind := .noOutcome
    exc := 0
    sid := 0
    fc := 0
    addr := 0
    data := 0
    plen := 0
    txlen := 0
    esid := 0
    efc := 0
    rxlen := 0
    paylen := 0
    settle := Config.settleDefault
    crcr := Config.crcInit
    paybuf := []
    txbuf := []
    rxbuf := []
    scnt := 0
    chin := []
    wire := []
    chOpen := false
    resetLine := false
    prog := []
    turns := []
    readData := 0
    resets := 0
    draws := 0 }

end Sys2Proof.Machine
end

