-- ==== Sys2Proof/Machine/Flags.lean ====
section
/-! DEFINITION. The codes of the fields of STATUS and OUTCOME and the two registers assembled from them
(`10_state.md` R14, R15, R20; `60_exceptions.md` R150). No command has an arithmetic flag: what each command does
to BUSY, DONE and ERR stands in its meaning (table after R19). -/

namespace Sys2Proof.Machine

/-- The value of the 3-bit field PHASE (`10_state.md` R14). -/
def phaseCode : Phase → BitVec 3
  | .idle => 0
  | .flush => 1
  | .send => 2
  | .settle => 3
  | .read => 4
  | .parse => 5

/-- The value of the 4-bit field KIND (`60_exceptions.md` R150). -/
def kindCode : Kind → BitVec 4
  | .noOutcome => 0
  | .payload => 1
  | .emptyResponse => 2
  | .malformed => 3
  | .crcMismatch => 4
  | .slaveIdMismatch => 5
  | .driverException => 6
  | .functionCodeMismatch => 7
  | .channelNotOpen => 8

/-- STATUS: bits 15:7 zero, 6:4 PHASE, 3 CHOPEN (the input read now), 2 ERR, 1 DONE, 0 BUSY
(`10_state.md` R15, R19). -/
def statusWord (s : State) : Word :=
  (0 : BitVec 9) ++ phaseCode s.phase ++ BitVec.ofBool s.chOpen ++ BitVec.ofBool s.err ++
    BitVec.ofBool s.done ++ BitVec.ofBool s.busy

/-- OUTCOME: bits 15:8 EXC, 7:4 zero, 3:0 KIND (`10_state.md` R20). -/
def outcomeWord (s : State) : Word := s.exc ++ (0 : BitVec 4) ++ kindCode s.kind

end Sys2Proof.Machine
end

