-- ==== Sys2Proof/Machine/Ops.lean ====
section
/-! DEFINITION. The named operations over buffers, flags and the whole state that the meanings share: one byte of
a buffer, `MemRead` and `MemWrite` (`00_scope.md` R5), setting ERR (`10_state.md` R18), the refusal of a command
while BUSY (`44_system.md` R143), the completion step `finish` by which every outcome is delivered, which is this
engine's "trap entry" (`43_transaction.md` R127, `60_exceptions.md` R157), and beside it the acknowledgement, its
"trap return" (`60_exceptions.md` R162, `44_system.md` R141), and the reset of the engine
(`70_reset_and_hazards.md` R175). -/

namespace Sys2Proof.Machine

/-- The byte listed at index `a`, none where nothing has been written since reset. -/
def Memory.byteAt : Memory → Nat → Option Byte
  | [], _ => none
  | (k, b) :: m, a => if a = k then some b else if a < k then none else Memory.byteAt m a

/-- Write one byte, keeping the indexes strictly rising. -/
def Memory.store : Memory → Nat → Byte → Memory
  | [], a, b => [(a, b)]
  | (k, c) :: m, a, b =>
    if a = k then (a, b) :: m
    else if a < k then (a, b) :: (k, c) :: m
    else (k, c) :: Memory.store m a b

/-- Write a byte sequence at `i`, `i + 1`, and so on. -/
def Memory.storeAll : Memory → Nat → List Byte → Memory
  | m, _, [] => m
  | m, i, b :: bs => Memory.storeAll (Memory.store m i b) (i + 1) bs

/-- The canonical form of a buffer: indexes strictly rising (so no index is listed twice). An unlisted index
reads as no known byte, so no entry can equal what an unlisted index reads as. -/
abbrev Memory.wf (m : Memory) : Prop := List.Pairwise (fun x y : Host.Cell => x.1 < y.1) m

/-- Every listed index is below `n`. -/
abbrev Memory.below (m : Memory) (n : Nat) : Prop := ∀ x ∈ m, x.1 < n

/-- The contents of a buffer space (`10_state.md` R31). -/
def bufferOf (s : State) : Buffer → Memory
  | .paybuf => s.paybuf
  | .txbuf => s.txbuf
  | .rxbuf => s.rxbuf

/-- Replace the contents of a buffer space. -/
def withBuffer (s : State) (S : Buffer) (m : Memory) : State :=
  match S with
  | .paybuf => { s with paybuf := m }
  | .txbuf => { s with txbuf := m }
  | .rxbuf => { s with rxbuf := m }

/-- `S[i]`: the byte last written there, or the free value that stands there since reset (`10_state.md` R36). -/
def byteOf (s : State) (S : Buffer) (i : Nat) : Byte :=
  (Memory.byteAt (bufferOf s S) i).getD (Config.unspecifiedByte s.resets S i)

/-- The bytes `S[i], ..., S[i+n−1]`. -/
def bytesOf (s : State) (S : Buffer) (i n : Nat) : List Byte :=
  (List.range n).map fun k => byteOf s S (i + k)

/-- `MemRead(S, i, n)`; it requires `i + n ≤` the capacity of `S` (`00_scope.md` R5, log entry 10). -/
def memRead (s : State) (S : Buffer) (i n : Nat) : Except Fault (List Byte) :=
  if i + n ≤ Config.capacity S then .ok (bytesOf s S i n) else .error (.bufferRange S i n)

/-- `MemWrite(S, i, n, v)` with `v` the sequence `bs` and `n` its length; it requires `i + n ≤` the capacity of
`S` (`00_scope.md` R5, log entry 10). Bytes outside `S[i .. i+n]` are left as they were. -/
def memWrite (s : State) (S : Buffer) (i : Nat) (bs : List Byte) : Except Fault State :=
  if i + bs.length ≤ Config.capacity S then .ok (withBuffer s S (Memory.storeAll (bufferOf s S) i bs))
  else .error (.bufferRange S i bs.length)

/-- Go on with what a buffer operation answers, or stop with its fault. -/
def orFault {α : Type} (r : Except Fault α) (k : α → Result) : Result :=
  match r with
  | .ok a => k a
  | .error f => .fault f

/-- `ERR <- 1` and nothing else (`10_state.md` R18). -/
def raiseErr (s : State) : State := { s with err := true }

/-- A command while busy: `ERR <- 1`, nothing else; otherwise the command (`44_system.md` R143). -/
def whenIdle (s : State) (k : Result) : Result := if s.busy then .next (raiseErr s) else k

/-- `finish(k, e, p)`: the completion step (`43_transaction.md` R127). SCNT is not written. -/
def finish (k : Kind) (e : Byte) (p : Word) (s : State) : State :=
  { s with kind := k, exc := e, paylen := p, busy := false, done := true, phase := .idle }

/-- Acknowledge: `DONE <- 0`, `ERR <- 0`, nothing else (`44_system.md` R141). -/
def acknowledge (s : State) : State := { s with done := false, err := false }

/-- Every piece of engine state at the value of `10_state.md` R36; CHIN, WIRE, `ch_open`, the level of the reset
input and the model's own fields stay (R36, `70_reset_and_hazards.md` R177). -/
def resetEngine (s : State) : State :=
  { State.reset with
    chin := s.chin
    wire := s.wire
    chOpen := s.chOpen
    resetLine := s.resetLine
    prog := s.prog
    turns := s.turns
    readData := s.readData
    resets := s.resets
    draws := s.draws }

end Sys2Proof.Machine
end

