-- ==== Sys2Proof/Machine/Operands.lean ====
section
/-! DEFINITION. The operand forms: the bytes of a 16-bit field and the 16-bit value of two bytes
(`20_memory.md` R40, R41; `30_encoding.md` R77, R80), the registers by number and by name (`10_state.md` R11),
what a host read of a register returns (`20_memory.md` R44), the length register of each buffer
(R28 to R30), and the host-side conversion of a signed value (`30_encoding.md` R78). -/

namespace Sys2Proof.Machine

/-- `f[15:8]` (`30_encoding.md` R77). -/
def hiByte (f : Word) : Byte := f.extractLsb' 8 8

/-- `f[7:0]` (`30_encoding.md` R77). -/
def loByte (f : Word) : Byte := f.extractLsb' 0 8

/-- A 16-bit request field, most significant byte first (`20_memory.md` R40). -/
def bigEndian (f : Word) : List Byte := [hiByte f, loByte f]

/-- A CRC, least significant byte first (`20_memory.md` R41). -/
def littleEndian (c : Word) : List Byte := [loByte c, hiByte c]

/-- `lo or (hi << 8)` as a 16-bit number (`30_encoding.md` R80). -/
def wordOf (lo hi : Byte) : Word := lo.zeroExtend 16 ||| (hi.zeroExtend 16 <<< 8)

/-- The number of each register (`10_state.md` R11). -/
def regNumber : RegName → Nat
  | .cmd => 0
  | .status => 1
  | .outcome => 2
  | .sid => 3
  | .fc => 4
  | .addr => 5
  | .data => 6
  | .plen => 7
  | .txlen => 8
  | .esid => 9
  | .efc => 10
  | .rxlen => 11
  | .paylen => 12
  | .settle => 13
  | .crcr => 14
  | .reserved => 15

/-- The registers in the order of their numbers (`10_state.md` R11). -/
def regFile : List RegName :=
  [.cmd, .status, .outcome, .sid, .fc, .addr, .data, .plen, .txlen, .esid, .efc, .rxlen, .paylen, .settle,
   .crcr, .reserved]

/-- The register a number names, none above 15 (`10_state.md` R11, `20_memory.md` R54). -/
def regOfNumber (n : Nat) : Option RegName := regFile[n]?

/-- What `HostRead(REG, n)` returns: register 0 and register 15 read 0, STATUS and OUTCOME are assembled, every
other register is zero-extended to 16 bits (`20_memory.md` R44). -/
def readRegister (s : State) : RegName → Word
  | .cmd => 0
  | .status => statusWord s
  | .outcome => outcomeWord s
  | .sid => s.sid.zeroExtend 16
  | .fc => s.fc.zeroExtend 16
  | .addr => s.addr
  | .data => s.data
  | .plen => s.plen
  | .txlen => s.txlen
  | .esid => s.esid.zeroExtend 16
  | .efc => s.efc.zeroExtend 16
  | .rxlen => s.rxlen
  | .paylen => s.paylen
  | .settle => s.settle
  | .crcr => s.crcr
  | .reserved => 0

/-- The host-writable registers 3, 4, 5, 6, 7, 9, 10, 11, 13 (`20_memory.md` R46). -/
def hostWritable : RegName → Bool
  | .sid | .fc | .addr | .data | .plen | .esid | .efc | .rxlen | .settle => true
  | .cmd | .status | .outcome | .txlen | .paylen | .crcr | .reserved => false

/-- The length register of each buffer: only `S[0 .. length]` is meaningful (`10_state.md` R28, R29, R30). -/
def lengthRegister (s : State) : Buffer → Word
  | .paybuf => s.plen
  | .txbuf => s.txlen
  | .rxbuf => s.rxlen

/-- `to16(v)`: `v` for 0 ≤ v ≤ 65535, `v + 65536` for −32768 ≤ v ≤ −1, and no value otherwise: the host must
refuse it (`30_encoding.md` R78). -/
def to16 (v : Int) : Option Word :=
  if 0 ≤ v ∧ v ≤ 65535 then some (BitVec.ofNat 16 v.toNat)
  else if -32768 ≤ v ∧ v ≤ -1 then some (BitVec.ofNat 16 (v + 65536).toNat)
  else none

end Sys2Proof.Machine
end

