-- ==== Sys2Proof/Machine/Crc.lean ====
section
/-! DEFINITION. The CRC unit (`40_crc_unit.md`): the pure functions crc_bit, crc_byte and crc16 (R90 to R92), and
the commands CRC.INIT and CRC.UPD (R93, R94). -/

namespace Sys2Proof.Machine

/-- `crc_bit(c)`: a logical right shift by one, XORed with CRC_POLY if bit 0 was 1 before it (R90). -/
def crcBit (c : Word) : Word := if c.getLsbD 0 then (c >>> 1) ^^^ Config.crcPoly else c >>> 1

/-- `n` shift steps. -/
def crcBits : Nat → Word → Word
  | 0, c => c
  | n + 1, c => crcBits n (crcBit c)

/-- `crc_byte(c, b)`: XOR the byte into bits 7:0, then exactly eight shift steps (R91). -/
def crcByte (c : Word) (b : Byte) : Word := crcBits 8 (c ^^^ b.zeroExtend 16)

/-- Absorb a byte sequence, first byte first, into `c` (R92). -/
def crcFold (c : Word) (bs : List Byte) : Word := bs.foldl crcByte c

/-- `crc16(s)`: from CRC_INIT, no final XOR; of the empty sequence 0xFFFF (R92). -/
def crc16 (bs : List Byte) : Word := crcFold Config.crcInit bs

/-- CRC.INIT: `CRCR <- 0xFFFF` (R93). -/
def execCrcInit (s : State) : Result := whenIdle s (.next { s with crcr := Config.crcInit })

/-- CRC.UPD imm8: `CRCR <- crc_byte(CRCR, b)` (R94). -/
def execCrcUpd (imm8 : Byte) (s : State) : Result := whenIdle s (.next { s with crcr := crcByte s.crcr imm8 })

end Sys2Proof.Machine
end

