-- ==== Sys2Proof/Machine/Build.lean ====
section
/-! DEFINITION. The frame builder (`41_frame_build.md`): a frame is its body and the CRC of it, low byte first
(`30_encoding.md` R70, R79); the register requests and the custom request; the four BLD commands (R100 to R104). -/

namespace Sys2Proof.Machine

/-- `b ‖ [c[7:0]] ‖ [c[15:8]]` with `c = crc16(b)` (`30_encoding.md` R79). -/
def frameOf (body : List Byte) : List Byte := body ++ littleEndian (crc16 body)

/-- `build_reg(sid, fc, a, b)`, the 8-byte frame of format REQ-R (`41_frame_build.md` R100). -/
def buildReg (sid fc : Byte) (a b : Word) : List Byte := frameOf (sid :: fc :: (bigEndian a ++ bigEndian b))

/-- The frame of format REQ-C: the payload bytes unmodified (`30_encoding.md` R72). -/
def buildCustom (sid fc : Byte) (payload : List Byte) : List Byte := frameOf (sid :: fc :: payload)

/-- `MemWrite(TXBUF, 0, n, frame); TXLEN <- n`, `n` the frame's length (`41_frame_build.md` R100, R104). -/
def storeFrame (frame : List Byte) (s : State) : Result :=
  orFault (memWrite s .txbuf 0 frame) fun t => .next { t with txlen := BitVec.ofNat 16 frame.length }

/-- BLD.RDH: a ReadRegisters request with function code 0x03 (R101). -/
def execBldRdh (s : State) : Result :=
  whenIdle s (storeFrame (buildReg s.sid Config.fcReadA s.addr s.data) s)

/-- BLD.RDI: a ReadRegisters request with function code 0x04 (R102). -/
def execBldRdi (s : State) : Result :=
  whenIdle s (storeFrame (buildReg s.sid Config.fcReadB s.addr s.data) s)

/-- BLD.WSR: a WriteSingleRegister request, function code 0x06 (R103). -/
def execBldWsr (s : State) : Result :=
  whenIdle s (storeFrame (buildReg s.sid Config.fcWriteSingle s.addr s.data) s)

/-- BLD.CUS: a CustomPayload request with function code FC and payload PAYBUF[0 .. PLEN] (R104). -/
def execBldCus (s : State) : Result :=
  whenIdle s (orFault (memRead s .paybuf 0 s.plen.toNat) fun payload =>
    storeFrame (buildCustom s.sid s.fc payload) s)

end Sys2Proof.Machine
end

