-- ==== Sys2Proof/Machine/Parse.lean ====
section
/-! DEFINITION. The frame validator and parser (`42_frame_parse.md`): the pure function parse with its seven
ordered checks (R110), and the command PARSE (R111). -/

namespace Sys2Proof.Machine

/-- A sequence that is not shorter than MIN_FRAME has the four bytes the checks read. -/
theorem four_le_of_minFrame {n : Nat} (h : ¬ n < Config.minFrame) : 4 ≤ n := Nat.not_lt.mp h

/-- `parse(esid, efc, raw)`: (kind, exc, paylen); the first check that fails decides the result (R110). -/
def parse (esid efc : Byte) (raw : List Byte) : Kind × Byte × Nat :=
  if raw.length = 0 then (.emptyResponse, 0, 0)
  else if h : raw.length < Config.minFrame then (.malformed, 0, 0)
  else
    have h4 : 4 ≤ raw.length := four_le_of_minFrame h
    if wordOf (raw[raw.length - 2]'(by omega)) (raw[raw.length - 1]'(by omega)) ≠
        crc16 (raw.take (raw.length - 2)) then
      (.crcMismatch, 0, 0)
    else if raw[0] ≠ esid then (.slaveIdMismatch, 0, 0)
    else if raw[1] &&& Config.excBit ≠ 0 then (.driverException, raw[2], 0)
    else if raw[1] ≠ efc then (.functionCodeMismatch, 0, 0)
    else (.payload, 0, raw.length - 4)

/-- `OUTCOME.KIND <- k; OUTCOME.EXC <- e; PAYLEN <- p; DONE <- 1` (R111). -/
def recordOutcome (r : Kind × Byte × Nat) (s : State) : State :=
  { s with kind := r.1, exc := r.2.1, paylen := BitVec.ofNat 16 r.2.2, done := true }

/-- PARSE: validate and parse RXBUF[0 .. RXLEN] against ESID and EFC; DONE is cleared and set again within the
one atomic step, so it ends at 1 (R111). -/
def execParse (s : State) : Result :=
  whenIdle s (orFault (memRead s .rxbuf 0 s.rxlen.toNat) fun raw =>
    .next (recordOutcome (parse s.esid s.efc raw) { s with done := false }))

end Sys2Proof.Machine
end

