-- ==== Sys2Proof/Machine/System.lean ====
section
/-! DEFINITION. The system commands (`44_system.md`): NOP (R140) and CLR (R141). -/

namespace Sys2Proof.Machine

/-- NOP: nothing, and the only command that is not refused while BUSY = 1 (R140). -/
def execNop (s : State) : Result := .next s

/-- CLR: `DONE <- 0; ERR <- 0`; while BUSY it sets ERR like any other command (R141, R143). -/
def execClr (s : State) : Result := whenIdle s (.next (acknowledge s))

end Sys2Proof.Machine
end

