-- ==== Sys2Proof/Machine/Channel.lean ====
section
/-! DEFINITION. The byte channel as the engine and its environment use it (`60_exceptions.md` R163 to R167): the
three channel operations, the remote's append, and the owner's level. -/

namespace Sys2Proof.Machine

/-- `ChReset()`: `CHIN <- []` (R164). -/
def chReset (s : State) : State := { s with chin := [] }

/-- `ChWrite(s)`: `WIRE <- WIRE ++ [s]`; it cannot fail (R165). -/
def chWrite (bytes : List Byte) (s : State) : State := { s with wire := s.wire ++ [bytes] }

/-- `ChRead(max)`: the first `min(max, len(CHIN))` bytes of CHIN, removed from it (R166). -/
def chRead (max : Nat) (s : State) : List Byte × State :=
  (s.chin.take max, { s with chin := s.chin.drop max })

/-- The remote appends bytes to the end of CHIN while the channel is open; while it is closed it has no step
(R167). -/
def remoteTurn (bytes : List Byte) (s : State) : State :=
  if s.chOpen then { s with chin := s.chin ++ bytes } else s

/-- The channel owner sets the level `ch_open` (R163). -/
def ownerTurn (level : Bool) (s : State) : State := { s with chOpen := level }

end Sys2Proof.Machine
end

