-- ==== Sys2Proof/Machine/Transaction.lean ====
section
/-! DEFINITION. The transaction coordinator (`43_transaction.md`): the acceptance of XFER (R121), the five phase
steps of the engine (R122 to R126), and the tick of the time base (`60_exceptions.md` R161). A phase step is
enabled by PHASE (R122 to R126), so it looks at PHASE and not at BUSY. -/

namespace Sys2Proof.Machine

/-- The acceptance of XFER (R121): BUSY <- 1, DONE <- 0, OUTCOME <- 0, PAYLEN <- 0, RXLEN <- 0, PHASE <- 1. -/
def acceptXfer (s : State) : State :=
  { s with busy := true, done := false, kind := .noOutcome, exc := 0, paylen := 0, rxlen := 0, phase := .flush }

/-- XFER: refused with ERR while busy or while no frame has been built (TXLEN = 0), otherwise accepted (R121). -/
def execXfer (s : State) : Result :=
  whenIdle s (if s.txlen = 0 then .next (raiseErr s) else .next (acceptXfer s))

/-- A phase step that is about to use the channel: with `ch_open = 0` it completes with ChannelNotOpen and the
operation is not performed (`60_exceptions.md` R158). -/
def ifOpen (s : State) (k : Result) : Result := if s.chOpen then k else .next (finish .channelNotOpen 0 0 s)

/-- FLUSH (R122). -/
def flushStep (s : State) : Result := ifOpen s (.next { chReset s with phase := .send })

/-- SEND (R123). -/
def sendStep (s : State) : Result :=
  ifOpen s (orFault (memRead s .txbuf 0 s.txlen.toNat) fun frame =>
    .next { chWrite frame s with scnt := s.settle, phase := .settle })

/-- SETTLE, enabled when SCNT = 0 (R124). -/
def settleStep (s : State) : Result := if s.scnt = 0 then .next { s with phase := .read } else .next s

/-- READ: one read of what is available, up to RDMAX bytes (R125). -/
def readStep (s : State) : Result :=
  ifOpen s
    (let r := chRead Config.rdMax s
     orFault (memWrite r.2 .rxbuf 0 r.1) fun t =>
       .next { t with rxlen := BitVec.ofNat 16 r.1.length, phase := .parse })

/-- PARSE, the phase (R126): the outcome is delivered by `finish` (R127). -/
def parseStep (s : State) : Result :=
  orFault (memRead s .rxbuf 0 s.rxlen.toNat) fun raw =>
    let r := parse s.esid s.efc raw
    .next (finish r.1 r.2.1 (BitVec.ofNat 16 r.2.2) s)

/-- The engine's turn: its phase step; in IDLE it has none (R120 to R126, `60_exceptions.md` R172). -/
def engineTurn (s : State) : Result :=
  match s.phase with
  | .idle => .next s
  | .flush => flushStep s
  | .send => sendStep s
  | .settle => settleStep s
  | .read => readStep s
  | .parse => parseStep s

/-- Has the engine an enabled step? (R122 to R126, R132) -/
def engineEnabled (s : State) : Bool :=
  match s.phase with
  | .idle => false
  | .settle => s.scnt == 0
  | .flush | .send | .read | .parse => true

/-- A tick: `if PHASE = 3 and SCNT ≠ 0 then SCNT <- SCNT − 1`; otherwise nothing (`60_exceptions.md` R161). -/
def tickTurn (s : State) : State :=
  if s.phase = .settle ∧ s.scnt ≠ 0 then { s with scnt := s.scnt - 1 } else s

end Sys2Proof.Machine
end

