-- ==== Sys2Proof/Machine/Dispatch.lean ====
section
/-! DEFINITION. The meaning of each command, one arm per constructor of `Instr` (`30_encoding.md` R67). -/

namespace Sys2Proof.Machine

def exec (i : Instr) (s : State) : Host.Outcome State Fault Refusal :=
  match i with
  | .nop => Sys2Proof.Machine.execNop s
  | .clr => Sys2Proof.Machine.execClr s
  | .crcInit => Sys2Proof.Machine.execCrcInit s
  | .crcUpd imm8 => Sys2Proof.Machine.execCrcUpd imm8 s
  | .bldRdh => Sys2Proof.Machine.execBldRdh s
  | .bldRdi => Sys2Proof.Machine.execBldRdi s
  | .bldWsr => Sys2Proof.Machine.execBldWsr s
  | .bldCus => Sys2Proof.Machine.execBldCus s
  | .parse => Sys2Proof.Machine.execParse s
  | .xfer => Sys2Proof.Machine.execXfer s

end Sys2Proof.Machine
end

