-- ==== Sys2Proof/Machine/HostPort.lean ====
section
/-! DEFINITION. The host port (`20_memory.md` R44 to R49, R54): the command a write of CMD starts, reads and
writes of registers and of buffer bytes, and the host's turn, which makes its next access (`30_encoding.md` R86). -/

namespace Sys2Proof.Machine

/-- A write of the word `w` to CMD: the command it decodes to, or, for a reserved word, `ERR <- 1` and nothing
else, busy or idle (`30_encoding.md` R65, R68; `44_system.md` R142, R143). -/
def command (w : Word) (s : State) : Result :=
  match decode w with
  | .ok i => exec i s
  | .error _ => .next (raiseErr s)

/-- `HostWrite` of a register other than CMD with BUSY = 0 (`20_memory.md` R45, R47): the read-only and reserved
registers ignore it; the 8-bit ones take `v[7:0]`; PLEN and RXLEN refuse a value above their limit with ERR. -/
def writeIdle (r : RegName) (v : Word) (s : State) : State :=
  match r with
  | .sid => { s with sid := loByte v }
  | .fc => { s with fc := loByte v }
  | .addr => { s with addr := v }
  | .data => { s with data := v }
  | .plen => if v.toNat ≤ Config.maxPay then { s with plen := v } else raiseErr s
  | .esid => { s with esid := loByte v }
  | .efc => { s with efc := loByte v }
  | .rxlen => if v.toNat ≤ Config.maxAdu then { s with rxlen := v } else raiseErr s
  | .settle => { s with settle := v }
  | .cmd | .status | .outcome | .txlen | .paylen | .crcr | .reserved => s

/-- `HostWrite` of a register other than CMD with BUSY = 1: ignored, with ERR for a host-writable register
(`20_memory.md` R46). -/
def writeBusy (r : RegName) (s : State) : State := if hostWritable r then raiseErr s else s

/-- `HostWrite(REG, n, v)` for the register the number names (`20_memory.md` R45, R46). -/
def writeRegister (r : RegName) (v : Word) (s : State) : Result :=
  match r with
  | .cmd => command v s
  | .status | .outcome | .sid | .fc | .addr | .data | .plen | .txlen | .esid | .efc | .rxlen | .paylen
  | .settle | .crcr | .reserved => .next (if s.busy then writeBusy r s else writeIdle r v s)

/-- `HostWrite(S, i, b)` with `i` below the capacity: TXBUF ignores it; the others ignore it with ERR while busy
and take the byte while idle (`20_memory.md` R49). -/
def writeByte (S : Buffer) (i : Nat) (b : Byte) (s : State) : State :=
  match S with
  | .txbuf => s
  | .paybuf => if s.busy then raiseErr s else { s with paybuf := Memory.store s.paybuf i b }
  | .rxbuf => if s.busy then raiseErr s else { s with rxbuf := Memory.store s.rxbuf i b }

/-- `HostRead(S, i)` with `i` below the capacity: the byte `S[i]` below the buffer's length register, an
unspecified byte at or above it (`20_memory.md` R48, log entry 7). No engine state changes. -/
def readByte (S : Buffer) (i : Nat) (s : State) : State :=
  if i < (lengthRegister s S).toNat then { s with readData := (byteOf s S i).zeroExtend 16 }
  else { s with readData := (Config.staleRead s.draws S i).zeroExtend 16, draws := s.draws + 1 }

/-- One host access (`20_memory.md` R44 to R49); one that names no location is refused (R54). A WAIT that finds
BUSY = 1 stays the host's next access (`30_encoding.md` R86). -/
def access (a : HostOp) (s : State) : Result :=
  match a with
  | .readReg n =>
    match regOfNumber n with
    | some r => .next { s with readData := readRegister s r }
    | none => .refused (.noSuchRegister n)
  | .writeReg n v =>
    match regOfNumber n with
    | some r => writeRegister r v s
    | none => .refused (.noSuchRegister n)
  | .readBuf S i => if i < Config.capacity S then .next (readByte S i s) else .refused (.noSuchByte S i)
  | .writeBuf S i b => if i < Config.capacity S then .next (writeByte S i b s) else .refused (.noSuchByte S i)
  | .wait =>
    let t := { s with readData := statusWord s }
    .next (if (statusWord s).getLsbD 0 then { t with prog := .wait :: s.prog } else t)

/-- The host's turn: its next access, if it has one left. -/
def hostTurn (s : State) : Result :=
  match s.prog with
  | [] => .next s
  | a :: rest => access a { s with prog := rest }

end Sys2Proof.Machine
end

