-- ==== Sys2Proof/Machine/Agents.lean ====
section
/-! DEFINITION. The agents and their turns (`00_scope.md` R6, `20_memory.md` R55): the reset input
(`70_reset_and_hazards.md` R175, R177), the turn of each agent, whose turn comes next, and the placing of a command
as the host's next access. -/

namespace Sys2Proof.Machine

/-- The reset input changes: asserted, or released after being asserted, every piece of engine state takes its
reset value (`70_reset_and_hazards.md` R175); what the buffers then hold is unspecified anew, so the counter of
`Config.unspecifiedByte` advances (log entry 6). A release of a line that is not asserted is no event. -/
def resetTurn (asserted : Bool) (s : State) : State :=
  if asserted || s.resetLine then { resetEngine s with resetLine := asserted, resets := s.resets + 1 } else s

/-- The atomic step of the agent whose turn it is (`00_scope.md` R6). -/
def takeTurn (t : Turn) (s : State) : Result :=
  match t with
  | .host => hostTurn s
  | .engine => engineTurn s
  | .tick => .next (tickTurn s)
  | .remote bytes => .next (remoteTurn bytes s)
  | .owner level => .next (ownerTurn level s)
  | .reset asserted => .next (resetTurn asserted s)

/-- While the reset input is asserted every piece of engine state holds its reset value, whatever an access would
have written (`70_reset_and_hazards.md` R175, log entry 9). -/
def heldInReset (r : Result) : Result :=
  match r with
  | .next s => .next (resetEngine s)
  | .fault f => .fault f
  | .refused f => .refused f

/-- One turn, with the reset input taken into account. -/
def runTurn (t : Turn) (s : State) : Result := if s.resetLine then heldInReset (takeTurn t s) else takeTurn t s

/-- Whose turn it is once the listed turns are used up: the engine's when it has an enabled step, else the time
base's while a transaction waits, else the host's (log entry 2; the fairness of `43_transaction.md` R132). -/
def quietTurn (s : State) : Turn :=
  if engineEnabled s then .engine else if s.phase = .settle then .tick else .host

/-- The next turn and the state it is taken in. -/
def nextTurn (s : State) : Turn × State :=
  match s.turns with
  | [] => (quietTurn s, s)
  | t :: rest => (t, { s with turns := rest })

/-- Put `w` where the machine takes its next command from: the host's next access is the write of `w` to CMD, the
next turn is the host's, and the reset input is released (log entry 4). -/
def placeCommand (w : Word) (s : State) : State :=
  { s with prog := .writeReg (regNumber .cmd) w :: s.prog, turns := .host :: s.turns, resetLine := false }

end Sys2Proof.Machine
end

