-- ==== Sys2Proof/Machine/Step.lean ====
section
/-! DEFINITION. One step of the machine: the next turn of the total order (`00_scope.md` R6). -/

namespace Sys2Proof.Machine

/-- One atomic step of one agent. -/
def step (s : State) : Host.Outcome State Fault Refusal := runTurn (nextTurn s).1 (nextTurn s).2

/-- `s` with the command word of the low `nbits` bits of `w` as the host's next access, on the next turn. -/
def State.withFetchWord (s : State) (nbits w : Nat) : State := placeCommand (BitVec.ofNat 16 (w % 2 ^ nbits)) s

end Sys2Proof.Machine
end

