-- ==== Sys2Proof/Machine/Script.lean ====
section
/-! DEFINITION. Host scripts (`30_encoding.md` R86, R87): the script lines as host accesses, and the seven
pseudo-commands as the scripts they abbreviate. The engine does not decode them; a host program is a list of
accesses in `State.prog`. -/

namespace Sys2Proof.Machine

/-- `WR name, value` (R86). -/
def lineWr (r : RegName) (v : Word) : HostOp := .writeReg (regNumber r) v

/-- `RD name` (R86). -/
def lineRd (r : RegName) : HostOp := .readReg (regNumber r)

/-- `CMD mnemonic` (R86): a write of the command word to CMD. -/
def lineCmd (i : Instr) : HostOp := lineWr .cmd (encode i)

/-- `WB buf[i], b` for each byte of a sequence, from index `i` on (R86). -/
def linesWb (S : Buffer) : Nat → List Byte → List HostOp
  | _, [] => []
  | i, b :: bs => .writeBuf S i b :: linesWb S (i + 1) bs

/-- `CRC16 b0, ..., bk` (R87). -/
def scriptCrc16 (bs : List Byte) : List HostOp :=
  lineCmd .crcInit :: (bs.map fun b => lineCmd (.crcUpd b)) ++ [lineRd .crcr]

/-- `REQ.RDH sid, addr, count` (R87). -/
def scriptReqRdh (sid : Byte) (addr count : Word) : List HostOp :=
  [lineWr .sid (sid.zeroExtend 16), lineWr .addr addr, lineWr .data count, lineCmd .bldRdh]

/-- `REQ.RDI sid, addr, count` (R87). -/
def scriptReqRdi (sid : Byte) (addr count : Word) : List HostOp :=
  [lineWr .sid (sid.zeroExtend 16), lineWr .addr addr, lineWr .data count, lineCmd .bldRdi]

/-- `REQ.WSR sid, addr, value`: no script for a value `to16` has none for, which the host must refuse
(R78, R87). -/
def scriptReqWsr (sid : Byte) (addr : Word) (value : Int) : Option (List HostOp) :=
  (to16 value).map fun v =>
    [lineWr .sid (sid.zeroExtend 16), lineWr .addr addr, lineWr .data v, lineCmd .bldWsr]

/-- `REQ.CUS sid, fc, p0, ..., pk` (R87). -/
def scriptReqCus (sid fc : Byte) (payload : List Byte) : List HostOp :=
  [lineWr .sid (sid.zeroExtend 16), lineWr .fc (fc.zeroExtend 16)] ++ linesWb .paybuf 0 payload ++
    [lineWr .plen (BitVec.ofNat 16 payload.length), lineCmd .bldCus]

/-- `EXPECT sid, fc` (R87). -/
def scriptExpect (sid fc : Byte) : List HostOp :=
  [lineWr .esid (sid.zeroExtend 16), lineWr .efc (fc.zeroExtend 16)]

/-- `TXN` (R87). -/
def scriptTxn : List HostOp := [lineCmd .xfer, .wait, lineRd .outcome, lineRd .paylen, lineRd .rxlen]

end Sys2Proof.Machine
end

