-- ==== Sys2Proof/Safety.lean ====
section
/-! DEFINITION. The terms the statements are made in: running several steps, giving an agent the next turn, a valid
frame (`30_encoding.md` R70), the invariants of every reachable state (`10_state.md` R37) with the canonical form
of the buffers, what it means that a command builds a frame (`41_frame_build.md` R100, R105), the moves of PHASE
(`10_state.md` R14), and how many steps a transaction still needs at most (`43_transaction.md` R132). -/

namespace Sys2Proof.Machine

/-- `k` steps of the machine, stopping at a fault or a refusal. -/
def runSteps : Nat → State → Result
  | 0, s => .next s
  | k + 1, s =>
    match step s with
    | .next t => runSteps k t
    | .fault f => .fault f
    | .refused f => .refused f

/-- `s` with the turn `t` before all others. -/
def onTurn (t : Turn) (s : State) : State := { s with turns := t :: s.turns }

/-- `s` with the host's turn before all others and `a` as the host's next access. -/
def onAccess (a : HostOp) (s : State) : State := onTurn .host { s with prog := a :: s.prog }

/-- `s` with a host script to be run next, one host turn for each of its lines. -/
def onScript (lines : List HostOp) (s : State) : State :=
  { s with prog := lines ++ s.prog, turns := List.replicate lines.length .host ++ s.turns }

/-- A frame whose CRC field, low byte first, is the CRC of what stands before it (`30_encoding.md` R70, R80;
`41_frame_build.md` R105). -/
def ValidFrame (f : List Byte) : Prop :=
  4 ≤ f.length ∧ wordOf (f.getD (f.length - 2) 0) (f.getD (f.length - 1) 0) = crc16 (f.take (f.length - 2))

/-- What holds in every reachable state: `10_state.md` R37 (a) to (i), and the canonical form of the buffers.
R37 (h) and the bound on KIND in (f) hold by the types of PHASE and KIND (log entry 15). -/
structure Inv (s : State) : Prop where
  /-- R37 (a). -/
  busyIffPhase : s.busy = true ↔ s.phase ≠ .idle
  /-- R37 (b). -/
  txlenLegal : s.txlen = 0 ∨ (4 ≤ s.txlen.toNat ∧ s.txlen.toNat ≤ Config.maxAdu)
  /-- R37 (c). -/
  rxlenLegal : s.rxlen.toNat ≤ Config.maxAdu
  /-- R37 (d). -/
  plenLegal : s.plen.toNat ≤ Config.maxPay
  /-- R37 (e). -/
  frameValid : s.txlen ≠ 0 → ValidFrame (bytesOf s .txbuf 0 s.txlen.toNat)
  /-- R37 (f). -/
  excOnlyWithException : s.exc ≠ 0 → s.kind = .driverException
  /-- R37 (g). -/
  paylenOnlyWithPayload : s.paylen ≠ 0 → s.kind = .payload
  /-- R37 (i). -/
  scntOnlyInSettle : s.scnt ≠ 0 → s.phase = .settle
  /-- The buffers are in canonical form. -/
  buffersWf : ∀ S, Memory.wf (bufferOf s S)
  /-- No buffer lists an index at or above its capacity. -/
  buffersBelow : ∀ S, Memory.below (bufferOf s S) (Config.capacity S)

/-- Running command `i` in `s` answers a next state in which TXBUF[0 .. n] is `frame`, `n` its length, TXLEN is `n`,
the other bytes of TXBUF read as before, and everything else is as it was. -/
def BuildsFrame (i : Instr) (s : State) (frame : List Byte) : Prop :=
  ∃ t, exec i s = .next t ∧
    t = { s with txbuf := t.txbuf, txlen := BitVec.ofNat 16 frame.length } ∧
    bytesOf t .txbuf 0 frame.length = frame ∧
    ∀ a, frame.length ≤ a → byteOf t .txbuf a = byteOf s .txbuf a

/-- The four commands that build a frame (`41_frame_build.md` R101 to R104). -/
def IsBuild (i : Instr) : Prop := i = .bldRdh ∨ i = .bldRdi ∨ i = .bldWsr ∨ i = .bldCus

/-- The function code a BLD command builds with (`41_frame_build.md` R101 to R105). -/
def buildCode (s : State) : Instr → Byte
  | .bldRdh => 0x03
  | .bldRdi => 0x04
  | .bldWsr => 0x06
  | .bldCus => s.fc
  | .nop | .clr | .crcInit | .crcUpd _ | .parse | .xfer => 0

/-- The next step is the host's write of the word `w` to CMD. -/
def NextIsCommand (s : State) (w : Word) : Prop :=
  (nextTurn s).1 = .host ∧ ∃ rest, s.prog = .writeReg 0 w :: rest

/-- The next step is the host's access `a`. -/
def NextIsAccess (s : State) (a : HostOp) : Prop := (nextTurn s).1 = .host ∧ ∃ rest, s.prog = a :: rest

/-- The next step is taken with the reset input asserted, or asserts it. -/
def UnderReset (s : State) : Prop := s.resetLine = true ∨ (nextTurn s).1 = .reset true

/-- The moves of PHASE: 0→1→2→3→4→5→0, or a drop to 0 from 1, 2 or 4 (`10_state.md` R14). -/
def PhaseMove (p q : Phase) : Prop :=
  (p = .idle ∧ q = .flush) ∨ (p = .flush ∧ q = .send) ∨ (p = .send ∧ q = .settle) ∨
  (p = .settle ∧ q = .read) ∨ (p = .read ∧ q = .parse) ∨ (p = .parse ∧ q = .idle) ∨
  (p = .flush ∧ q = .idle) ∨ (p = .send ∧ q = .idle) ∨ (p = .read ∧ q = .idle)

/-- The most engine steps and ticks a transaction still needs (`43_transaction.md` R132). -/
def stepsLeft (s : State) : Nat :=
  match s.phase with
  | .idle => 0
  | .flush => s.settle.toNat + 5
  | .send => s.settle.toNat + 4
  | .settle => s.scnt.toNat + 3
  | .read => 2
  | .parse => 1

end Sys2Proof.Machine
end

