-- ==== Sys2Proof/Certificates/Slice0/Obligations.lean ====
section
/-! DEFINITION. The statements for the provers, from the numbered rules of spec/. Each docstring names the rules it
formalises. A step of an agent is stated on a state with that agent's turn before all others (`onTurn`, `onAccess`)
and the reset input released; every state with a listed turn has that form. A record update on the right side is
the frame: every field it does not name is unchanged. -/

open Sys2Proof Sys2Proof.Machine

/-! ### The command word -/

/-- `30_encoding.md` R65, `20_memory.md` R46: the host's write of a word to CMD runs the command it decodes to, and
nothing else happens in that step but the use of the turn and of the access (the list of turns and the list of
accesses are the model's, log entries 1 and 4). -/
def Obligations.StepRunsTheDecodedCommand : Prop :=
  ∀ (s : State) (w : Word) (i : Instr), s.resetLine = false → decode w = .ok i →
    step (onAccess (.writeReg 0 w) s) = exec i s

/-- `30_encoding.md` R67: words written out from the match column, and the words of CRC.UPD for three bytes. -/
def Obligations.DecodeReadsTheTableWords : Prop :=
  decode 0b0000000000000000 = .ok .nop ∧ decode 0b0000000000000001 = .ok .clr ∧
  decode 0b0000000000010000 = .ok .crcInit ∧ decode 0b1110100000010001 = .ok (.crcUpd 0xE8) ∧
  decode 0b0000000000010001 = .ok (.crcUpd 0x00) ∧ decode 0b1111111100010001 = .ok (.crcUpd 0xFF) ∧
  decode 0b0000000000100000 = .ok .bldRdh ∧ decode 0b0000000000100001 = .ok .bldRdi ∧
  decode 0b0000000000100010 = .ok .bldWsr ∧ decode 0b0000000000100011 = .ok .bldCus ∧
  decode 0b0000000000110000 = .ok .parse ∧ decode 0b0000000001000000 = .ok .xfer

/-- `30_encoding.md` R66, R67, R69: a word decodes to a command exactly if it is that command's encoding, with
every immediate at every value. -/
def Obligations.DecodeAndEncodeAgree : Prop :=
  ∀ (w : Word) (i : Instr), decode w = .ok i ↔ encode i = w

/-- `30_encoding.md` R67: the rows are disjoint, no word matches two rows. -/
def Obligations.NoWordMatchesTwoRows : Prop :=
  ∀ (w : Word) (a b : Nat) (ha : a < commandTable.length) (hb : b < commandTable.length),
    (commandTable[a]).accepts w = true → (commandTable[b]).accepts w = true → a = b

/-- `30_encoding.md` R68, `44_system.md` R142: the words that match no row are those with an unknown op and those of a
format Z op with a non-zero immediate; the host's write of one to CMD sets ERR and does nothing else. -/
def Obligations.ReservedWordSetsErr : Prop :=
  ∀ w : Word,
    ((∀ r ∈ commandTable, r.accepts w = false) ↔
      w.extractLsb' 0 8 ∉ ([0x00, 0x01, 0x10, 0x11, 0x20, 0x21, 0x22, 0x23, 0x30, 0x40] : List Byte) ∨
      (w.extractLsb' 0 8 ≠ 0x11 ∧ w.extractLsb' 8 8 ≠ 0x00)) ∧
    ((∀ r ∈ commandTable, r.accepts w = false) → ∀ s : State, s.resetLine = false →
      step (onAccess (.writeReg 0 w) s) = .next { s with err := true })

/-! ### The system commands -/

/-- `44_system.md` R140: NOP does nothing in any state, busy or idle, and is the only command that is not refused
while BUSY. -/
def Obligations.NopChangesNothing : Prop :=
  decode 0x0000 = .ok .nop ∧ (∀ s : State, exec .nop s = .next s) ∧
  ∀ (s : State) (i : Instr), s.busy = true → i ≠ .nop → exec i s = .next { s with err := true }

/-- `44_system.md` R141: CLR clears DONE and ERR, and is refused with ERR while BUSY. -/
def Obligations.ClrClearsDoneAndErr : Prop :=
  decode 0x0001 = .ok .clr ∧
  ∀ s : State,
    (s.busy = false → exec .clr s = .next { s with done := false, err := false }) ∧
    (s.busy = true → exec .clr s = .next { s with err := true })

/-! ### The CRC unit -/

/-- `40_crc_unit.md` R93: CRC.INIT. -/
def Obligations.CrcInitSetsCrcr : Prop :=
  decode 0x0010 = .ok .crcInit ∧
  ∀ s : State,
    (s.busy = false → exec .crcInit s = .next { s with crcr := 0xFFFF }) ∧
    (s.busy = true → exec .crcInit s = .next { s with err := true })

/-- `40_crc_unit.md` R94: CRC.UPD absorbs its immediate byte into CRCR. -/
def Obligations.CrcUpdAbsorbsItsByte : Prop :=
  crcByte 0xFFFF 0x00 = 0x40BF ∧
  ∀ b : Byte, decode ((b.zeroExtend 16 <<< 8) ||| 0x0011) = .ok (.crcUpd b) ∧
    ∀ s : State,
      (s.busy = false → exec (.crcUpd b) s = .next { s with crcr := crcByte s.crcr b }) ∧
      (s.busy = true → exec (.crcUpd b) s = .next { s with err := true })

/-- `40_crc_unit.md` R90, R91, R92, bit by bit: the shift step moves every bit down by one and, if bit 0 was 1,
flips bits 15, 13 and 0 (0xA001); a byte is XORed into bits 7:0 before eight shift steps; bytes are absorbed in
index order from 0xFFFF, with no final XOR. -/
def Obligations.CrcIsTheShiftRegister : Prop :=
  (∀ (c : Word) (i : Nat), i < 16 →
    (crcBit c).getLsbD i =
      ((i != 15 && c.getLsbD (i + 1)) ^^ (c.getLsbD 0 && (i == 15 || i == 13 || i == 0)))) ∧
  (∀ (c : Word) (b : Byte), ∃ c0 : Word,
    (∀ i, i < 16 → c0.getLsbD i = (c.getLsbD i ^^ b.getLsbD i)) ∧
    crcByte c b = crcBit (crcBit (crcBit (crcBit (crcBit (crcBit (crcBit (crcBit c0)))))))) ∧
  crc16 [] = 0xFFFF ∧
  ∀ (bs : List Byte) (b : Byte), crc16 (bs ++ [b]) = crcByte (crc16 bs) b

/-- `40_crc_unit.md` R95 (c), (d), (e): splitting at any byte, dependence on the XOR alone, bijectivity, and
linearity over XOR. -/
def Obligations.CrcArithmeticLaws : Prop :=
  (∀ bs cs : List Byte, crc16 (bs ++ cs) = cs.foldl crcByte (crc16 bs)) ∧
  (∀ (c d : Word) (a b : Byte), c ^^^ a.zeroExtend 16 = d ^^^ b.zeroExtend 16 → crcByte c a = crcByte d b) ∧
  Function.Bijective crcBit ∧
  (∀ b : Byte, Function.Bijective fun c => crcByte c b) ∧
  ∀ (c d : Word) (b : Byte), crcByte (c ^^^ d) b = crcByte c b ^^^ crcByte d 0x00

/-- `40_crc_unit.md` R97 (a): over a body and two more bytes the CRC is zero exactly if the two bytes are the CRC of
the body, low byte first. -/
def Obligations.CrcResidueIsZeroExactlyOnFrames : Prop :=
  ∀ (body : List Byte) (lo hi : Byte), crc16 (body ++ [lo, hi]) = 0x0000 ↔ wordOf lo hi = crc16 body

/-- `40_crc_unit.md` R97 (b), (c): a frame with one bit changed, in its CRC bytes or before them, parses as
CrcMismatch whatever header is expected. -/
def Obligations.EverySingleBitErrorIsCrcMismatch : Prop :=
  (∀ (esid efc : Byte) (body : List Byte) (k : Nat), 2 ≤ body.length → k < 16 →
    parse esid efc (body ++ littleEndian (crc16 body ^^^ ((1 : Word) <<< k))) = (.crcMismatch, 0, 0)) ∧
  ∀ (esid efc : Byte) (body : List Byte) (i k : Nat) (hi : i < body.length), 2 ≤ body.length → k < 8 →
    parse esid efc (body.set i (body[i] ^^^ ((1 : Byte) <<< k)) ++ littleEndian (crc16 body)) =
      (.crcMismatch, 0, 0)

/-- `30_encoding.md` R87 and the statement after `40_crc_unit.md` R94: the script CRC16 b0, ..., bk leaves crc16 of
the bytes in CRCR and reads it, from any idle state, and changes nothing else. -/
def Obligations.Crc16ScriptReadsTheCrc : Prop :=
  ∀ (s : State) (bs : List Byte), s.resetLine = false → s.busy = false →
    runSteps (bs.length + 2) (onScript (scriptCrc16 bs) s) =
      .next { s with crcr := crc16 bs, readData := crc16 bs }

/-- `70_reset_and_hazards.md` R195, `10_state.md` R25: no command but the two of the CRC unit reads or writes
CRCR: with another value in it the same command gives the same next state, that value kept. -/
def Obligations.OtherCommandsIgnoreCrcr : Prop :=
  ∀ (s t : State) (c : Word) (i : Instr), i ≠ .crcInit → (∀ b, i ≠ .crcUpd b) → exec i s = .next t →
    t.crcr = s.crcr ∧ exec i { s with crcr := c } = .next { t with crcr := c }

/-! ### The frame builder -/

/-- `41_frame_build.md` R101: BLD.RDH. -/
def Obligations.BldRdhBuildsReadRequest : Prop :=
  decode 0x0020 = .ok .bldRdh ∧
  ∀ s : State,
    (s.busy = false →
      BuildsFrame .bldRdh s
        ([s.sid, 0x03, hiByte s.addr, loByte s.addr, hiByte s.data, loByte s.data] ++
          littleEndian (crc16 [s.sid, 0x03, hiByte s.addr, loByte s.addr, hiByte s.data, loByte s.data]))) ∧
    (s.busy = true → exec .bldRdh s = .next { s with err := true })

/-- `41_frame_build.md` R102: BLD.RDI. -/
def Obligations.BldRdiBuildsReadRequest : Prop :=
  decode 0x0021 = .ok .bldRdi ∧
  ∀ s : State,
    (s.busy = false →
      BuildsFrame .bldRdi s
        ([s.sid, 0x04, hiByte s.addr, loByte s.addr, hiByte s.data, loByte s.data] ++
          littleEndian (crc16 [s.sid, 0x04, hiByte s.addr, loByte s.addr, hiByte s.data, loByte s.data]))) ∧
    (s.busy = true → exec .bldRdi s = .next { s with err := true })

/-- `41_frame_build.md` R103: BLD.WSR. -/
def Obligations.BldWsrBuildsWriteRequest : Prop :=
  decode 0x0022 = .ok .bldWsr ∧
  ∀ s : State,
    (s.busy = false →
      BuildsFrame .bldWsr s
        ([s.sid, 0x06, hiByte s.addr, loByte s.addr, hiByte s.data, loByte s.data] ++
          littleEndian (crc16 [s.sid, 0x06, hiByte s.addr, loByte s.addr, hiByte s.data, loByte s.data]))) ∧
    (s.busy = true → exec .bldWsr s = .next { s with err := true })

/-- `41_frame_build.md` R104: BLD.CUS, for every payload length PLEN may hold (`20_memory.md` R47). -/
def Obligations.BldCusBuildsCustomRequest : Prop :=
  decode 0x0023 = .ok .bldCus ∧
  ∀ s : State,
    (s.busy = false → s.plen.toNat ≤ 252 →
      BuildsFrame .bldCus s
        ([s.sid, s.fc] ++ bytesOf s .paybuf 0 s.plen.toNat ++
          littleEndian (crc16 ([s.sid, s.fc] ++ bytesOf s .paybuf 0 s.plen.toNat)))) ∧
    (s.busy = true → exec .bldCus s = .next { s with err := true })

/-- `41_frame_build.md` R105: after any BLD command TXBUF[0 .. TXLEN] is a valid frame headed by SID and the
command's function code, and, if bit 7 of that code is clear, the parser that expects this header reads it as
Payload with the PDU as payload. -/
def Obligations.BuiltFrameIsValidAndParses : Prop :=
  ∀ (s : State) (i : Instr), s.busy = false → s.plen.toNat ≤ 252 → IsBuild i →
    ∃ t, exec i s = .next t ∧ ValidFrame (bytesOf t .txbuf 0 t.txlen.toNat) ∧
      byteOf t .txbuf 0 = s.sid ∧ byteOf t .txbuf 1 = buildCode s i ∧
      ((buildCode s i).getLsbD 7 = false →
        parse (byteOf t .txbuf 0) (byteOf t .txbuf 1) (bytesOf t .txbuf 0 t.txlen.toNat) =
          (.payload, 0, t.txlen.toNat - 4))

/-- `30_encoding.md` R86, R87: the three register-request scripts, from any idle state. REQ.WSR converts its value
by to16 (R78). The bytes of TXBUF from index 8 on read as before (`41_frame_build.md` R100). -/
def Obligations.RegisterRequestScriptsBuild : Prop :=
  ∀ (s : State) (sid : Byte) (addr count : Word), s.resetLine = false → s.busy = false →
    (∃ t, runSteps 4 (onScript (scriptReqRdh sid addr count) s) = .next t ∧
      t = { s with sid := sid, addr := addr, data := count, txbuf := t.txbuf, txlen := 8 } ∧
      bytesOf t .txbuf 0 8 = buildReg sid 0x03 addr count ∧
      ∀ a, 8 ≤ a → byteOf t .txbuf a = byteOf s .txbuf a) ∧
    (∃ t, runSteps 4 (onScript (scriptReqRdi sid addr count) s) = .next t ∧
      t = { s with sid := sid, addr := addr, data := count, txbuf := t.txbuf, txlen := 8 } ∧
      bytesOf t .txbuf 0 8 = buildReg sid 0x04 addr count ∧
      ∀ a, 8 ≤ a → byteOf t .txbuf a = byteOf s .txbuf a) ∧
    ∀ (value : Int) (lines : List HostOp), scriptReqWsr sid addr value = some lines →
      ∃ t v, to16 value = some v ∧ runSteps 4 (onScript lines s) = .next t ∧
        t = { s with sid := sid, addr := addr, data := v, txbuf := t.txbuf, txlen := 8 } ∧
        bytesOf t .txbuf 0 8 = buildReg sid 0x06 addr v ∧
        ∀ a, 8 ≤ a → byteOf t .txbuf a = byteOf s .txbuf a

/-- `30_encoding.md` R87: the script REQ.CUS builds the custom request of its payload, from any idle state, for
every payload the engine can hold; the bytes of PAYBUF behind the payload and of TXBUF behind the frame read as
before. -/
def Obligations.CustomRequestScriptBuilds : Prop :=
  ∀ (s : State) (sid fc : Byte) (payload : List Byte), s.resetLine = false → s.busy = false →
    payload.length ≤ 252 →
    ∃ t, runSteps (payload.length + 4) (onScript (scriptReqCus sid fc payload) s) = .next t ∧
      t = { s with
            sid := sid, fc := fc, plen := BitVec.ofNat 16 payload.length, paybuf := t.paybuf, txbuf := t.txbuf,
            txlen := BitVec.ofNat 16 (payload.length + 4) } ∧
      bytesOf t .paybuf 0 payload.length = payload ∧
      (∀ a, payload.length ≤ a → byteOf t .paybuf a = byteOf s .paybuf a) ∧
      bytesOf t .txbuf 0 (payload.length + 4) = buildCustom sid fc payload ∧
      ∀ a, payload.length + 4 ≤ a → byteOf t .txbuf a = byteOf s .txbuf a

/-- `30_encoding.md` R78: to16 is defined exactly from −32768 to 65535 and is the value modulo 65536 there; outside,
the host refuses the value, and there is no script that would write DATA. -/
def Obligations.To16IsTwosComplement : Prop :=
  ∀ v : Int,
    (-32768 ≤ v ∧ v ≤ 65535 → ∃ w : Word, to16 v = some w ∧ (w.toNat : Int) = if 0 ≤ v then v else v + 65536) ∧
    (v < -32768 ∨ 65535 < v → to16 v = none ∧ ∀ (sid : Byte) (addr : Word), scriptReqWsr sid addr v = none)

/-! ### The parser -/

/-- `42_frame_parse.md` R110 and its decision table: the seven checks in their order, on every byte sequence (one of
at least four bytes is a header, a middle and two CRC bytes). -/
def Obligations.ParseChecksInOrder : Prop :=
  ∀ esid efc : Byte,
    parse esid efc [] = (.emptyResponse, 0, 0) ∧
    (∀ raw : List Byte, 1 ≤ raw.length → raw.length ≤ 3 → parse esid efc raw = (.malformed, 0, 0)) ∧
    ∀ (id fc : Byte) (mid : List Byte) (lo hi : Byte),
      parse esid efc (id :: fc :: (mid ++ [lo, hi])) =
        if wordOf lo hi ≠ crc16 (id :: fc :: mid) then (.crcMismatch, 0, 0)
        else if id ≠ esid then (.slaveIdMismatch, 0, 0)
        else if fc.getLsbD 7 = true then (.driverException, mid.headD lo, 0)
        else if fc ≠ efc then (.functionCodeMismatch, 0, 0)
        else (.payload, 0, mid.length)

/-- `42_frame_parse.md` R118: a response with the expected header and a correct CRC gives its payload, if bit 7 of
the function code is clear. -/
def Obligations.EchoParsesAsPayload : Prop :=
  ∀ (id fc : Byte) (payload : List Byte), fc.getLsbD 7 = false →
    parse id fc (frameOf (id :: fc :: payload)) = (.payload, 0, payload.length)

/-- `42_frame_parse.md` R111: PARSE, for every length RXLEN may hold (`20_memory.md` R47). -/
def Obligations.ParseRecordsTheOutcome : Prop :=
  decode 0x0030 = .ok .parse ∧
  ∀ s : State,
    (s.busy = false → s.rxlen.toNat ≤ 256 → ∀ (k : Kind) (e : Byte) (p : Nat),
      parse s.esid s.efc (bytesOf s .rxbuf 0 s.rxlen.toNat) = (k, e, p) →
      exec .parse s = .next { s with kind := k, exc := e, paylen := BitVec.ofNat 16 p, done := true }) ∧
    (s.busy = true → exec .parse s = .next { s with err := true })

/-! ### The transaction coordinator -/

/-- `43_transaction.md` R121: the acceptance of XFER, and its two refusals. -/
def Obligations.XferAcceptance : Prop :=
  decode 0x0040 = .ok .xfer ∧
  ∀ s : State,
    (s.busy = true → exec .xfer s = .next { s with err := true }) ∧
    (s.busy = false → s.txlen = 0 → exec .xfer s = .next { s with err := true }) ∧
    (s.busy = false → s.txlen ≠ 0 →
      exec .xfer s = .next { s with
        busy := true, done := false, kind := .noOutcome, exc := 0, paylen := 0, rxlen := 0, phase := .flush })

/-- `43_transaction.md` R122: the FLUSH step. -/
def Obligations.FlushStepDiscardsChin : Prop :=
  ∀ s : State, s.resetLine = false → s.phase = .flush →
    step (onTurn .engine s) =
      if s.chOpen = true then .next { s with chin := [], phase := .send }
      else .next { s with kind := .channelNotOpen, exc := 0, paylen := 0, busy := false, done := true, phase := .idle }

/-- `43_transaction.md` R123: the SEND step. -/
def Obligations.SendStepWritesTheFrame : Prop :=
  ∀ s : State, s.resetLine = false → s.phase = .send → s.txlen.toNat ≤ 256 →
    step (onTurn .engine s) =
      if s.chOpen = true then
        .next { s with wire := s.wire ++ [bytesOf s .txbuf 0 s.txlen.toNat], scnt := s.settle, phase := .settle }
      else .next { s with kind := .channelNotOpen, exc := 0, paylen := 0, busy := false, done := true, phase := .idle }

/-- `43_transaction.md` R124: the SETTLE step is enabled when SCNT = 0; before that the engine has none, and its turn
passes (that a turn passes is the model's choice, log entry 3). -/
def Obligations.SettleStepWaitsForScnt : Prop :=
  ∀ s : State, s.resetLine = false → s.phase = .settle →
    step (onTurn .engine s) = if s.scnt = 0 then .next { s with phase := .read } else .next s

/-- `43_transaction.md` R125, R131 with `60_exceptions.md` R166: the READ step takes the first min(256, len) bytes
of CHIN into RXBUF and RXLEN. -/
def Obligations.ReadStepTakesWhatIsAvailable : Prop :=
  ∀ s : State, s.resetLine = false → s.phase = .read →
    (s.chOpen = true → ∃ t, step (onTurn .engine s) = .next t ∧
      t = { s with
            rxbuf := t.rxbuf, rxlen := BitVec.ofNat 16 (min 256 s.chin.length), chin := s.chin.drop 256,
            phase := .parse } ∧
      bytesOf t .rxbuf 0 (min 256 s.chin.length) = s.chin.take 256 ∧
      ∀ a, min 256 s.chin.length ≤ a → byteOf t .rxbuf a = byteOf s .rxbuf a) ∧
    (s.chOpen = false → step (onTurn .engine s) = .next { s with
      kind := .channelNotOpen, exc := 0, paylen := 0, busy := false, done := true, phase := .idle })

/-- `43_transaction.md` R126, R127: the PARSE step and the completion it makes. -/
def Obligations.ParseStepCompletes : Prop :=
  ∀ (s : State) (k : Kind) (e : Byte) (p : Nat), s.resetLine = false → s.phase = .parse → s.rxlen.toNat ≤ 256 →
    parse s.esid s.efc (bytesOf s .rxbuf 0 s.rxlen.toNat) = (k, e, p) →
    step (onTurn .engine s) = .next { s with
      kind := k, exc := e, paylen := BitVec.ofNat 16 p, busy := false, done := true, phase := .idle }

/-- `60_exceptions.md` R161: a tick lowers SCNT by one while PHASE = 3 and SCNT ≠ 0, and otherwise does nothing. -/
def Obligations.TickLowersScnt : Prop :=
  ∀ s : State, s.resetLine = false →
    (s.phase = .settle → s.scnt ≠ 0 → ∃ c : Word, c.toNat + 1 = s.scnt.toNat ∧
      step (onTurn .tick s) = .next { s with scnt := c }) ∧
    (s.phase ≠ .settle ∨ s.scnt = 0 → step (onTurn .tick s) = .next s)

/-- `60_exceptions.md` R163, R167: the remote appends any bytes while the channel is open and has no step while it
is closed, when its turn passes (the model's choice, log entry 3); the owner sets the level. -/
def Obligations.RemoteAndOwnerTurns : Prop :=
  ∀ (s : State) (bytes : List Byte) (level : Bool), s.resetLine = false →
    step (onTurn (.remote bytes) s) = .next { s with chin := if s.chOpen = true then s.chin ++ bytes else s.chin } ∧
    step (onTurn (.owner level) s) = .next { s with chOpen := level }

/-- `43_transaction.md` R120 to R127, R133: one whole transaction. With the channel open and the frame built, the
host's XFER, FLUSH, SEND, the remote's `resp`, SETTLE-many ticks, SETTLE, READ and PARSE end, whatever CHIN held
before, in the outcome of parsing the first 256 bytes of `resp`, with these in RXBUF and the bytes behind them
as before (R125), the frame once more in WIRE and everything else as it was. -/
def Obligations.TransactionDeliversTheParsedResponse : Prop :=
  ∀ (s : State) (resp : List Byte), s.resetLine = false → s.busy = false → s.txlen ≠ 0 → s.txlen.toNat ≤ 256 →
    s.chOpen = true →
    ∃ t, runSteps (s.settle.toNat + 7)
        { s with
          prog := .writeReg 0 0x0040 :: s.prog
          turns := [.host, .engine, .engine, .remote resp] ++ List.replicate s.settle.toNat .tick ++
            [.engine, .engine, .engine] ++ s.turns } = .next t ∧
      t = { s with
            wire := s.wire ++ [bytesOf s .txbuf 0 s.txlen.toNat]
            chin := resp.drop 256, scnt := 0, rxbuf := t.rxbuf
            rxlen := BitVec.ofNat 16 (min 256 resp.length)
            kind := (parse s.esid s.efc (resp.take 256)).1
            exc := (parse s.esid s.efc (resp.take 256)).2.1
            paylen := BitVec.ofNat 16 (parse s.esid s.efc (resp.take 256)).2.2
            busy := false, done := true, phase := .idle } ∧
      bytesOf t .rxbuf 0 (min 256 resp.length) = resp.take 256 ∧
      ∀ a, min 256 resp.length ≤ a → byteOf t .rxbuf a = byteOf s .rxbuf a

/-- `43_transaction.md` R132: every step but one under reset keeps the bound on the steps a running transaction
still needs from rising, and every enabled engine step and effective tick lowers it. -/
def Obligations.UsefulTurnsLowerTheBound : Prop :=
  ∀ s t : State, Inv s → s.busy = true → ¬ UnderReset s → step s = .next t →
    stepsLeft t ≤ stepsLeft s ∧
    ((nextTurn s).1 = .engine → engineEnabled s = true → stepsLeft t < stepsLeft s) ∧
    ((nextTurn s).1 = .tick → s.phase = .settle → s.scnt ≠ 0 → stepsLeft t < stepsLeft s)

/-- `43_transaction.md` R132, under the model's continuation when no turn is listed (log entry 2, the model's
choice, fair to the engine and the time base): every accepted XFER completes, within the bound, with an outcome. -/
def Obligations.TransactionCompletes : Prop :=
  ∀ s : State, Inv s → s.busy = true → s.resetLine = false → s.turns = [] →
    ∃ k t, k ≤ stepsLeft s ∧ runSteps k s = .next t ∧ t.busy = false ∧ t.done = true ∧ t.kind ≠ .noOutcome

/-! ### The host port -/

/-- `20_memory.md` R44 with `10_state.md` R15, R20, R26, R27: what a read of each register returns; nothing but what
the host has read changes (the field that holds it is the model's choice, log entry 5). -/
def Obligations.HostReadOfEachRegister : Prop :=
  ∀ s : State, s.resetLine = false →
    step (onAccess (.readReg 0) s) = .next { s with readData := 0 } ∧
    step (onAccess (.readReg 1) s) = .next { s with
      readData := BitVec.ofNat 16 (s.busy.toNat + 2 * s.done.toNat + 4 * s.err.toNat + 8 * s.chOpen.toNat +
        16 * (phaseCode s.phase).toNat) } ∧
    step (onAccess (.readReg 2) s) = .next { s with
      readData := BitVec.ofNat 16 ((kindCode s.kind).toNat + 256 * s.exc.toNat) } ∧
    step (onAccess (.readReg 3) s) = .next { s with readData := BitVec.ofNat 16 s.sid.toNat } ∧
    step (onAccess (.readReg 4) s) = .next { s with readData := BitVec.ofNat 16 s.fc.toNat } ∧
    step (onAccess (.readReg 5) s) = .next { s with readData := s.addr } ∧
    step (onAccess (.readReg 6) s) = .next { s with readData := s.data } ∧
    step (onAccess (.readReg 7) s) = .next { s with readData := s.plen } ∧
    step (onAccess (.readReg 8) s) = .next { s with readData := s.txlen } ∧
    step (onAccess (.readReg 9) s) = .next { s with readData := BitVec.ofNat 16 s.esid.toNat } ∧
    step (onAccess (.readReg 10) s) = .next { s with readData := BitVec.ofNat 16 s.efc.toNat } ∧
    step (onAccess (.readReg 11) s) = .next { s with readData := s.rxlen } ∧
    step (onAccess (.readReg 12) s) = .next { s with readData := s.paylen } ∧
    step (onAccess (.readReg 13) s) = .next { s with readData := s.settle } ∧
    step (onAccess (.readReg 14) s) = .next { s with readData := s.crcr } ∧
    step (onAccess (.readReg 15) s) = .next { s with readData := 0 }

/-- `20_memory.md` R45, R47: what a write of each register does while idle. -/
def Obligations.RegisterWriteWhileIdle : Prop :=
  ∀ (s : State) (v : Word), s.resetLine = false → s.busy = false →
    (∀ i, decode v = .ok i → step (onAccess (.writeReg 0 v) s) = exec i s) ∧
    (∀ e, decode v = .error e → step (onAccess (.writeReg 0 v) s) = .next { s with err := true }) ∧
    (∀ n ∈ [1, 2, 8, 12, 14, 15], step (onAccess (.writeReg n v) s) = .next s) ∧
    step (onAccess (.writeReg 3 v) s) = .next { s with sid := v.extractLsb' 0 8 } ∧
    step (onAccess (.writeReg 4 v) s) = .next { s with fc := v.extractLsb' 0 8 } ∧
    step (onAccess (.writeReg 5 v) s) = .next { s with addr := v } ∧
    step (onAccess (.writeReg 6 v) s) = .next { s with data := v } ∧
    step (onAccess (.writeReg 7 v) s) =
      (if v.toNat ≤ 252 then .next { s with plen := v } else .next { s with err := true }) ∧
    step (onAccess (.writeReg 9 v) s) = .next { s with esid := v.extractLsb' 0 8 } ∧
    step (onAccess (.writeReg 10 v) s) = .next { s with efc := v.extractLsb' 0 8 } ∧
    step (onAccess (.writeReg 11 v) s) =
      (if v.toNat ≤ 256 then .next { s with rxlen := v } else .next { s with err := true }) ∧
    step (onAccess (.writeReg 13 v) s) = .next { s with settle := v }

/-- `20_memory.md` R46, `44_system.md` R143: while busy a write to CMD of any word but 0x0000, and a write of a
host-writable register, set ERR and do nothing else; a write of 0x0000 to CMD, or of a read-only or reserved register,
does nothing. -/
def Obligations.RegisterWriteWhileBusy : Prop :=
  ∀ (s : State) (v : Word), s.resetLine = false → s.busy = true →
    step (onAccess (.writeReg 0 v) s) = .next { s with err := if v = 0x0000 then s.err else true } ∧
    (∀ n ∈ [3, 4, 5, 6, 7, 9, 10, 11, 13], step (onAccess (.writeReg n v) s) = .next { s with err := true }) ∧
    ∀ n ∈ [1, 2, 8, 12, 14, 15], step (onAccess (.writeReg n v) s) = .next s

/-- `20_memory.md` R49: a write of a byte below the buffer's capacity; the other bytes of the buffer read as
before. -/
def Obligations.BufferWrite : Prop :=
  ∀ (s : State) (i : Nat) (b : Byte), s.resetLine = false →
    (i < 256 → step (onAccess (.writeBuf .txbuf i b) s) = .next s) ∧
    (s.busy = true → i < 252 → step (onAccess (.writeBuf .paybuf i b) s) = .next { s with err := true }) ∧
    (s.busy = true → i < 256 → step (onAccess (.writeBuf .rxbuf i b) s) = .next { s with err := true }) ∧
    (s.busy = false → i < 252 → ∃ t, step (onAccess (.writeBuf .paybuf i b) s) = .next t ∧
      t = { s with paybuf := t.paybuf } ∧ byteOf t .paybuf i = b ∧
      ∀ a, a ≠ i → byteOf t .paybuf a = byteOf s .paybuf a) ∧
    (s.busy = false → i < 256 → ∃ t, step (onAccess (.writeBuf .rxbuf i b) s) = .next t ∧
      t = { s with rxbuf := t.rxbuf } ∧ byteOf t .rxbuf i = b ∧
      ∀ a, a ≠ i → byteOf t .rxbuf a = byteOf s .rxbuf a)

/-- `20_memory.md` R48: a read of a byte below the buffer's length register returns the byte written there, or, where
nothing has written it since reset, some byte (whatever the free value of log entry 6 is); at or above the length
register, below the capacity, it returns some byte (whatever the free value of log entry 7 is); no engine state
changes. -/
def Obligations.BufferRead : Prop :=
  ∀ (s : State) (S : Buffer) (i : Nat), s.resetLine = false → i < Config.capacity S →
    (i < (lengthRegister s S).toNat → ∀ b : Byte, Memory.byteAt (bufferOf s S) i = some b →
      step (onAccess (.readBuf S i) s) = .next { s with readData := BitVec.ofNat 16 b.toNat }) ∧
    (i < (lengthRegister s S).toNat → Memory.byteAt (bufferOf s S) i = none → ∃ b : Byte,
      step (onAccess (.readBuf S i) s) = .next { s with readData := BitVec.ofNat 16 b.toNat }) ∧
    ((lengthRegister s S).toNat ≤ i → ∃ b : Byte,
      step (onAccess (.readBuf S i) s) = .next { s with readData := BitVec.ofNat 16 b.toNat, draws := s.draws + 1 })

/-- `20_memory.md` R54: an access to a register number above 15 or to a buffer index at or above the capacity has no
step. -/
def Obligations.NoSuchLocationIsRefused : Prop :=
  ∀ (s : State) (n : Nat) (v : Word) (S : Buffer) (i : Nat) (b : Byte), s.resetLine = false →
    (15 < n → step (onAccess (.readReg n) s) = .refused (.noSuchRegister n) ∧
      step (onAccess (.writeReg n v) s) = .refused (.noSuchRegister n)) ∧
    (Config.capacity S ≤ i → step (onAccess (.readBuf S i) s) = .refused (.noSuchByte S i) ∧
      step (onAccess (.writeBuf S i b) s) = .refused (.noSuchByte S i))

/-- `30_encoding.md` R86: WAIT reads STATUS, and stays the host's next access exactly while BUSY is 1 (the list
of accesses is the model's choice, log entry 4). -/
def Obligations.WaitPollsStatus : Prop :=
  ∀ s : State, s.resetLine = false →
    step (onAccess .wait s) = .next { s with
      readData := readRegister s .status, prog := if s.busy = true then .wait :: s.prog else s.prog }

/-! ### Reset -/

/-- The table of `10_state.md` R36: the state right after reset, and what asserting the reset input gives in any state
(`70_reset_and_hazards.md` R175); CHIN, WIRE and ch_open stay. R36 leaves the buffers' contents unspecified: that
they list nothing is the model's form of this (log entry 6), each byte then being that entry's free value. -/
def Obligations.ResetGivesTheResetValues : Prop :=
  State.reset = { State.reset with
    busy := false, done := false, err := false, phase := .idle, kind := .noOutcome, exc := 0, sid := 0, fc := 0
    addr := 0, data := 0, plen := 0, txlen := 0, esid := 0, efc := 0, rxlen := 0, paylen := 0, settle := 100
    crcr := 0xFFFF, scnt := 0, paybuf := [], txbuf := [], rxbuf := [] } ∧
  (∀ s : State, ∃ t, step (onTurn (.reset true) s) = .next t ∧
    t = { s with
          busy := false, done := false, err := false, phase := .idle, kind := .noOutcome, exc := 0, sid := 0, fc := 0
          addr := 0, data := 0, plen := 0, txlen := 0, esid := 0, efc := 0, rxlen := 0, paylen := 0, settle := 100
          crcr := 0xFFFF, scnt := 0, paybuf := [], txbuf := [], rxbuf := [], resetLine := true
          resets := t.resets }) ∧
  ∀ s : State, s.resetLine = true → ∃ t, step (onTurn (.reset false) s) = .next t ∧
    t = { State.reset with
          chin := s.chin, wire := s.wire, chOpen := s.chOpen, prog := s.prog, turns := s.turns
          readData := s.readData, resets := t.resets, draws := s.draws }

/-- `70_reset_and_hazards.md` R175: while the reset input is asserted, and at the step that releases it, every piece
of engine state ends at its reset value, whatever the step is (that other agents' turns still occur then is the
model's reading, log entry 9). -/
def Obligations.HeldResetLeavesNoTrace : Prop :=
  ∀ s t : State, s.resetLine = true → step s = .next t → resetEngine t = t

/-! ### The whole machine -/

/-- `10_state.md` R37 holds right after reset. -/
def Obligations.InvariantHoldsAfterReset : Prop := Inv State.reset

/-- `10_state.md` R37 (a) to (i) and the canonical form of the buffers: every step keeps them. -/
def Obligations.EveryStepKeepsTheInvariant : Prop := ∀ s t : State, Inv s → step s = .next t → Inv t

/-- From a state that meets `10_state.md` R37 no step faults, and the only step that is refused is the host's access
to a location that does not exist (`20_memory.md` R54). -/
def Obligations.InvariantStatesNeverStop : Prop :=
  ∀ s : State, Inv s →
    (∀ f, step s ≠ .fault f) ∧
    ∀ r, step s = .refused r →
      (∃ n, 15 < n ∧ (NextIsAccess s (.readReg n) ∨ ∃ v, NextIsAccess s (.writeReg n v))) ∨
      ∃ S i, Config.capacity S ≤ i ∧ (NextIsAccess s (.readBuf S i) ∨ ∃ b, NextIsAccess s (.writeBuf S i b))

/-- `10_state.md` R14: PHASE only ever moves 0→1→2→3→4→5→0 or drops to 0 from 1, 2 or 4, but for a reset. -/
def Obligations.PhaseMovesInOrder : Prop :=
  ∀ s t : State, Inv s → step s = .next t → ¬ UnderReset s → t.phase = s.phase ∨ PhaseMove s.phase t.phase

/-- `10_state.md` R16, R17: BUSY is set only by the acceptance of XFER and cleared only by its completion, which sets
DONE and leaves an outcome, or by reset. -/
def Obligations.BusySpansOneTransaction : Prop :=
  ∀ s t : State, Inv s → step s = .next t →
    (s.busy = false → t.busy = true → NextIsCommand s 0x0040 ∧ s.txlen ≠ 0 ∧ t.done = false) ∧
    (s.busy = true → t.busy = false →
      UnderReset s ∨ ((nextTurn s).1 = .engine ∧ t.done = true ∧ t.kind ≠ .noOutcome))

/-- `10_state.md` R18 and the table of `44_system.md`: which steps set ERR, that such a step has no other effect, and
that only CLR and reset clear it. -/
def Obligations.ErrIsSetByHostMistakesOnly : Prop :=
  ∀ s t : State, step s = .next t →
    (s.err = true → t.err = false → (NextIsCommand s 0x0001 ∧ s.busy = false) ∨ UnderReset s) ∧
    (s.err = false → t.err = true →
      t = { (nextTurn s).2 with prog := t.prog, err := true } ∧
      ((s.busy = false ∧
          ((∃ w e, NextIsCommand s w ∧ decode w = .error e) ∨ (NextIsCommand s 0x0040 ∧ s.txlen = 0) ∨
            (∃ v : Word, NextIsAccess s (.writeReg 7 v) ∧ 252 < v.toNat) ∨
            ∃ v : Word, NextIsAccess s (.writeReg 11 v) ∧ 256 < v.toNat)) ∨
        (s.busy = true ∧
          ((∃ w, NextIsCommand s w ∧ w ≠ 0x0000) ∨
            (∃ n ∈ [3, 4, 5, 6, 7, 9, 10, 11, 13], ∃ v, NextIsAccess s (.writeReg n v)) ∨
            ∃ S i b, (S = .paybuf ∨ S = .rxbuf) ∧ NextIsAccess s (.writeBuf S i b)))))

/-- `10_state.md` R17 and the table after R19: DONE is set only by the completion of PARSE, accepted while idle, or of
XFER, the engine's step that clears BUSY and goes to IDLE, either leaving an outcome; it is cleared only by an accepted
CLR or XFER, or by reset. -/
def Obligations.DoneMarksACompletion : Prop :=
  ∀ s t : State, step s = .next t →
    (s.done = false → t.done = true →
      t.kind ≠ .noOutcome ∧
      ((NextIsCommand s 0x0030 ∧ s.busy = false) ∨
        ((nextTurn s).1 = .engine ∧ s.phase ≠ .idle ∧ s.phase ≠ .settle ∧ t.phase = .idle ∧ t.busy = false))) ∧
    (s.done = true → t.done = false →
      (s.busy = false ∧ (NextIsCommand s 0x0001 ∨ (NextIsCommand s 0x0040 ∧ s.txlen ≠ 0))) ∨ UnderReset s)

/-- `10_state.md` R25: CRCR changes only by CRC.INIT, CRC.UPD, and reset. -/
def Obligations.CrcrIsWrittenByTheCrcUnitOnly : Prop :=
  ∀ s t : State, step s = .next t → t.crcr ≠ s.crcr →
    UnderReset s ∨ (s.busy = false ∧ (NextIsCommand s 0x0010 ∨ ∃ b : Byte, NextIsCommand s (encode (.crcUpd b))))

/-- `10_state.md` R22, R29; `41_frame_build.md` R105: TXBUF and TXLEN change only by the four BLD commands, and
reset. -/
def Obligations.TxbufIsWrittenByTheBuilderOnly : Prop :=
  ∀ s t : State, step s = .next t → (t.txbuf ≠ s.txbuf ∨ t.txlen ≠ s.txlen) →
    UnderReset s ∨ (s.busy = false ∧ ∃ w ∈ ([0x0020, 0x0021, 0x0022, 0x0023] : List Word), NextIsCommand s w)

/-- `10_state.md` R12: the operand registers change only by the host's write of that register while idle, and by
reset; so does SETTLE. -/
def Obligations.OperandRegistersAreWrittenByTheHostOnly : Prop :=
  ∀ s t : State, step s = .next t → ¬ UnderReset s →
    (t.sid ≠ s.sid → s.busy = false ∧ ∃ v, NextIsAccess s (.writeReg 3 v)) ∧
    (t.fc ≠ s.fc → s.busy = false ∧ ∃ v, NextIsAccess s (.writeReg 4 v)) ∧
    (t.addr ≠ s.addr → s.busy = false ∧ ∃ v, NextIsAccess s (.writeReg 5 v)) ∧
    (t.data ≠ s.data → s.busy = false ∧ ∃ v, NextIsAccess s (.writeReg 6 v)) ∧
    (t.plen ≠ s.plen → s.busy = false ∧ ∃ v, NextIsAccess s (.writeReg 7 v)) ∧
    (t.esid ≠ s.esid → s.busy = false ∧ ∃ v, NextIsAccess s (.writeReg 9 v)) ∧
    (t.efc ≠ s.efc → s.busy = false ∧ ∃ v, NextIsAccess s (.writeReg 10 v)) ∧
    (t.settle ≠ s.settle → s.busy = false ∧ ∃ v, NextIsAccess s (.writeReg 13 v)) ∧
    (t.paybuf ≠ s.paybuf → s.busy = false ∧ ∃ i b, NextIsAccess s (.writeBuf .paybuf i b))

/-- `10_state.md` R21, R23, R30, R32 and the table after R19: but for a reset, RXLEN, RXBUF, OUTCOME, PAYLEN and SCNT
change only by the host's idle write, PARSE, an accepted XFER, the phase steps and the tick that the rules name for
them: RXLEN and RXBUF by a READ that goes on to PARSE, OUTCOME and PAYLEN by the step that completes, SCNT by a SEND
that goes on to SETTLE. -/
def Obligations.ResultRegistersHaveTheseWriters : Prop :=
  ∀ s t : State, step s = .next t → ¬ UnderReset s →
    (t.rxlen ≠ s.rxlen →
      (s.busy = false ∧ ((∃ v, NextIsAccess s (.writeReg 11 v)) ∨ (NextIsCommand s 0x0040 ∧ s.txlen ≠ 0))) ∨
      ((nextTurn s).1 = .engine ∧ s.phase = .read ∧ s.chOpen = true ∧ t.phase = .parse)) ∧
    (t.rxbuf ≠ s.rxbuf →
      (s.busy = false ∧ ∃ i b, NextIsAccess s (.writeBuf .rxbuf i b)) ∨
      ((nextTurn s).1 = .engine ∧ s.phase = .read ∧ s.chOpen = true ∧ t.phase = .parse)) ∧
    (t.kind ≠ s.kind ∨ t.exc ≠ s.exc ∨ t.paylen ≠ s.paylen →
      (s.busy = false ∧ (NextIsCommand s 0x0030 ∨ (NextIsCommand s 0x0040 ∧ s.txlen ≠ 0))) ∨
      ((nextTurn s).1 = .engine ∧ (s.phase = .flush ∨ s.phase = .send ∨ s.phase = .read ∨ s.phase = .parse) ∧
        t.phase = .idle ∧ t.busy = false ∧ t.done = true)) ∧
    (t.scnt ≠ s.scnt →
      ((nextTurn s).1 = .engine ∧ s.phase = .send ∧ s.chOpen = true ∧ t.phase = .settle) ∨
      ((nextTurn s).1 = .tick ∧ s.phase = .settle))

/-- `43_transaction.md` R134, `20_memory.md` R61: while a transaction runs, no step of any agent but a reset changes
the operands, PAYBUF, TXBUF, TXLEN, ESID, EFC, SETTLE or CRCR, and ERR is not cleared. -/
def Obligations.RunningTransactionKeepsItsOperands : Prop :=
  ∀ s t : State, s.busy = true → ¬ UnderReset s → step s = .next t →
    t.sid = s.sid ∧ t.fc = s.fc ∧ t.addr = s.addr ∧ t.data = s.data ∧ t.plen = s.plen ∧ t.paybuf = s.paybuf ∧
    t.txbuf = s.txbuf ∧ t.txlen = s.txlen ∧ t.esid = s.esid ∧ t.efc = s.efc ∧ t.settle = s.settle ∧
    t.crcr = s.crcr ∧ (s.err = true → t.err = true)

/-- `60_exceptions.md` R163 to R167, `20_memory.md` R52: WIRE grows only by the frame the SEND step writes; bytes
leave CHIN only by the FLUSH and READ steps; nothing else but the remote touches CHIN. ch_open changes only at the
channel owner's turn (R163). -/
def Obligations.ChannelIsUsedByThePhaseStepsOnly : Prop :=
  ∀ s t : State, step s = .next t →
    (t.wire ≠ s.wire → (nextTurn s).1 = .engine ∧ s.phase = .send ∧ s.chOpen = true ∧
      t.wire = s.wire ++ [bytesOf s .txbuf 0 s.txlen.toNat]) ∧
    (t.chin ≠ s.chin →
      ((nextTurn s).1 = .engine ∧ s.phase = .flush ∧ s.chOpen = true ∧ t.chin = []) ∨
      ((nextTurn s).1 = .engine ∧ s.phase = .read ∧ s.chOpen = true ∧ t.chin = s.chin.drop 256) ∨
      ∃ bytes, (nextTurn s).1 = .remote bytes ∧ s.chOpen = true ∧ t.chin = s.chin ++ bytes) ∧
    (t.chOpen ≠ s.chOpen → ∃ level, (nextTurn s).1 = .owner level ∧ t.chOpen = level)

/-- `60_exceptions.md` R158, R163, R167: a closed channel is never touched, by the engine or the remote. -/
def Obligations.ClosedChannelIsUntouched : Prop :=
  ∀ s t : State, s.chOpen = false → step s = .next t → t.chin = s.chin ∧ t.wire = s.wire
end

