-- ==== Sys2Proof/Machine/Bus.lean ====
section
/-! DEFINITION. A platform's byte-addressed bus (`20_memory.md` R43, R53): the transfers it can make, the host access
each of them is under a map HOSTMAP, and the map that R53 suggests. A bus program becomes a host program by
`hostProgram`; the machine's step sees host accesses only (log entry 17). -/

namespace Sys2Proof.Machine

/-- One transfer on the bus: 16 bits of a register, as its two bytes in the order of their addresses, or one byte of
a buffer (`20_memory.md` R43, R51). -/
inductive BusTransfer where
  | read16 (addr : Nat)
  | write16 (addr : Nat) (first second : Byte)
  | read8 (addr : Nat)
  | write8 (addr : Nat) (b : Byte)
  deriving DecidableEq, Repr

/-- The number of two bytes in the order of their addresses (`20_memory.md` R43). -/
def busWord (m : Config.HostMap) (first second : Byte) : Word :=
  if m.lowByteFirst then wordOf first second else wordOf second first

/-- The two bytes of a number in the order of their addresses (`20_memory.md` R43). -/
def busBytes (m : Config.HostMap) (v : Word) : List Byte := if m.lowByteFirst then littleEndian v else bigEndian v

/-- The host access a transfer is under the map: none where the map names nothing at the address, or a location of
the other width (`20_memory.md` R43, R53). -/
def hostAccess (m : Config.HostMap) (x : BusTransfer) : Option HostOp :=
  match x with
  | .read16 a =>
    match m.locate a with
    | some (.register n) => some (.readReg n)
    | some (.cell _ _) => none
    | none => none
  | .write16 a first second =>
    match m.locate a with
    | some (.register n) => some (.writeReg n (busWord m first second))
    | some (.cell _ _) => none
    | none => none
  | .read8 a =>
    match m.locate a with
    | some (.cell S i) => some (.readBuf S i)
    | some (.register _) => none
    | none => none
  | .write8 a b =>
    match m.locate a with
    | some (.cell S i) => some (.writeBuf S i b)
    | some (.register _) => none
    | none => none

/-- The host program a platform's transfers are under this machine's HOSTMAP, if each of them is an access. -/
def hostProgram (xs : List BusTransfer) : Option (List HostOp) := xs.mapM (hostAccess Config.params.hostMap)

/-- The byte offset of a register in the flat map `20_memory.md` R53 suggests. -/
def suggestedRegOffset (r : RegName) : Nat := 2 * regNumber r

/-- The first byte offset of a buffer in the flat map `20_memory.md` R53 suggests. -/
def suggestedBase : Buffer → Nat
  | .paybuf => 0x100
  | .txbuf => 0x200
  | .rxbuf => 0x300

/-- The byte offset of `S[i]` in the flat map `20_memory.md` R53 suggests. -/
def suggestedByteOffset (S : Buffer) (i : Nat) : Nat := suggestedBase S + i

/-- The offset lies in the window of `S`. -/
abbrev inWindow (S : Buffer) (a : Nat) : Prop := suggestedBase S ≤ a ∧ a < suggestedBase S + Config.capacity S

/-- What the flat map of `20_memory.md` R53 names at a byte offset. -/
def suggestedLocate (a : Nat) : Option Config.Location :=
  if a < 0x20 ∧ a % 2 = 0 then some (.register (a / 2))
  else if inWindow .paybuf a then some (.cell .paybuf (a - 0x100))
  else if inWindow .txbuf a then some (.cell .txbuf (a - 0x200))
  else if inWindow .rxbuf a then some (.cell .rxbuf (a - 0x300))
  else none

/-- The flat map of `20_memory.md` R53 as a HOSTMAP; its byte order stays the platform's choice (R43). -/
def suggestedMap (lowByteFirst : Bool) : Config.HostMap :=
  { locate := suggestedLocate, lowByteFirst := lowByteFirst }

end Sys2Proof.Machine
end

