-- ==== Sys2Proof/Laws/Bus.lean ====
section
/-! SUPPORT. What a platform's bus transfers are: every register and every byte of a buffer is reached at its offset
of the map `20_memory.md` R53 suggests, and the two bytes of a register access give the number back. -/

namespace Sys2Proof.Machine

theorem wordOf_lo_hi (v : Word) : wordOf (loByte v) (hiByte v) = v := by
  ext i hi
  simp only [wordOf, loByte, hiByte, BitVec.getElem_or, BitVec.getElem_setWidth, BitVec.getElem_shiftLeft,
    BitVec.getLsbD_extractLsb']
  by_cases h : i < 8
  · simp [h, BitVec.getLsbD_eq_getElem hi]
  · simp [h, show i - 8 < 8 by omega, show 8 + (i - 8) = i by omega, BitVec.getLsbD_eq_getElem hi]

theorem busBytes_busWord (m : Config.HostMap) (v : Word) :
    ∃ first second, busBytes m v = [first, second] ∧ busWord m first second = v := by
  unfold busBytes busWord
  split
  · exact ⟨loByte v, hiByte v, rfl, wordOf_lo_hi v⟩
  · exact ⟨hiByte v, loByte v, rfl, wordOf_lo_hi v⟩

theorem suggestedLocate_register (r : RegName) :
    suggestedLocate (suggestedRegOffset r) = some (.register (regNumber r)) := by
  cases r <;> rfl

/-- The windows of the suggested map do not meet. -/
theorem inWindow_byteOffset {S T : Buffer} {i : Nat} (h : i < Config.capacity S) :
    inWindow T (suggestedByteOffset S i) ↔ T = S := by
  have hS : Config.capacity S ≤ 256 := by cases S <;> decide
  have hT : Config.capacity T ≤ 256 := by cases T <;> decide
  simp only [inWindow, suggestedByteOffset]
  constructor
  · intro ⟨h1, h2⟩
    cases S <;> cases T <;> first
      | rfl
      | (simp only [suggestedBase] at h1 h2; omega)
  · rintro rfl
    omega

theorem suggestedLocate_cell {S : Buffer} {i : Nat} (h : i < Config.capacity S) :
    suggestedLocate (suggestedByteOffset S i) = some (.cell S i) := by
  have hreg : ¬ (suggestedByteOffset S i < 0x20 ∧ suggestedByteOffset S i % 2 = 0) := by
    cases S <;> simp only [suggestedByteOffset, suggestedBase] <;> omega
  simp only [suggestedLocate, hreg, inWindow_byteOffset h, if_false]
  cases S <;> simp [suggestedByteOffset, suggestedBase]

theorem suggestedMap_write16 (low : Bool) (r : RegName) (first second : Byte) :
    hostAccess (suggestedMap low) (.write16 (suggestedRegOffset r) first second) =
      some (.writeReg (regNumber r) (if low then wordOf first second else wordOf second first)) := by
  simp only [hostAccess, suggestedMap, suggestedLocate_register]
  rfl

theorem suggestedMap_write8 (low : Bool) {S : Buffer} {i : Nat} (h : i < Config.capacity S) (b : Byte) :
    hostAccess (suggestedMap low) (.write8 (suggestedByteOffset S i) b) = some (.writeBuf S i b) := by
  simp [hostAccess, suggestedMap, suggestedLocate_cell h]

end Sys2Proof.Machine
end

