-- ==== Sys2Proof/Laws/State.lean ====
section
/-! SUPPORT. What each named update of the state does to each field, one lemma a field, true by unfolding the update
once, so that no later proof unfolds a record update. -/

namespace Sys2Proof.Machine

variable (s : State)

/-! `raiseErr` (`10_state.md` R18) writes ERR alone. -/

@[simp] theorem raiseErr_busy : (raiseErr s).busy = s.busy := rfl
@[simp] theorem raiseErr_done : (raiseErr s).done = s.done := rfl
@[simp] theorem raiseErr_err : (raiseErr s).err = true := rfl
@[simp] theorem raiseErr_phase : (raiseErr s).phase = s.phase := rfl
@[simp] theorem raiseErr_kind : (raiseErr s).kind = s.kind := rfl
@[simp] theorem raiseErr_exc : (raiseErr s).exc = s.exc := rfl
@[simp] theorem raiseErr_sid : (raiseErr s).sid = s.sid := rfl
@[simp] theorem raiseErr_fc : (raiseErr s).fc = s.fc := rfl
@[simp] theorem raiseErr_addr : (raiseErr s).addr = s.addr := rfl
@[simp] theorem raiseErr_data : (raiseErr s).data = s.data := rfl
@[simp] theorem raiseErr_plen : (raiseErr s).plen = s.plen := rfl
@[simp] theorem raiseErr_txlen : (raiseErr s).txlen = s.txlen := rfl
@[simp] theorem raiseErr_esid : (raiseErr s).esid = s.esid := rfl
@[simp] theorem raiseErr_efc : (raiseErr s).efc = s.efc := rfl
@[simp] theorem raiseErr_rxlen : (raiseErr s).rxlen = s.rxlen := rfl
@[simp] theorem raiseErr_paylen : (raiseErr s).paylen = s.paylen := rfl
@[simp] theorem raiseErr_settle : (raiseErr s).settle = s.settle := rfl
@[simp] theorem raiseErr_crcr : (raiseErr s).crcr = s.crcr := rfl
@[simp] theorem raiseErr_paybuf : (raiseErr s).paybuf = s.paybuf := rfl
@[simp] theorem raiseErr_txbuf : (raiseErr s).txbuf = s.txbuf := rfl
@[simp] theorem raiseErr_rxbuf : (raiseErr s).rxbuf = s.rxbuf := rfl
@[simp] theorem raiseErr_scnt : (raiseErr s).scnt = s.scnt := rfl
@[simp] theorem raiseErr_chin : (raiseErr s).chin = s.chin := rfl
@[simp] theorem raiseErr_wire : (raiseErr s).wire = s.wire := rfl
@[simp] theorem raiseErr_chOpen : (raiseErr s).chOpen = s.chOpen := rfl
@[simp] theorem raiseErr_resetLine : (raiseErr s).resetLine = s.resetLine := rfl
@[simp] theorem raiseErr_prog : (raiseErr s).prog = s.prog := rfl
@[simp] theorem raiseErr_turns : (raiseErr s).turns = s.turns := rfl
@[simp] theorem raiseErr_readData : (raiseErr s).readData = s.readData := rfl
@[simp] theorem raiseErr_resets : (raiseErr s).resets = s.resets := rfl
@[simp] theorem raiseErr_draws : (raiseErr s).draws = s.draws := rfl

/-! `acknowledge` (`44_system.md` R141) clears DONE and ERR alone. -/

@[simp] theorem acknowledge_busy : (acknowledge s).busy = s.busy := rfl
@[simp] theorem acknowledge_done : (acknowledge s).done = false := rfl
@[simp] theorem acknowledge_err : (acknowledge s).err = false := rfl
@[simp] theorem acknowledge_phase : (acknowledge s).phase = s.phase := rfl
@[simp] theorem acknowledge_kind : (acknowledge s).kind = s.kind := rfl
@[simp] theorem acknowledge_exc : (acknowledge s).exc = s.exc := rfl
@[simp] theorem acknowledge_sid : (acknowledge s).sid = s.sid := rfl
@[simp] theorem acknowledge_fc : (acknowledge s).fc = s.fc := rfl
@[simp] theorem acknowledge_addr : (acknowledge s).addr = s.addr := rfl
@[simp] theorem acknowledge_data : (acknowledge s).data = s.data := rfl
@[simp] theorem acknowledge_plen : (acknowledge s).plen = s.plen := rfl
@[simp] theorem acknowledge_txlen : (acknowledge s).txlen = s.txlen := rfl
@[simp] theorem acknowledge_esid : (acknowledge s).esid = s.esid := rfl
@[simp] theorem acknowledge_efc : (acknowledge s).efc = s.efc := rfl
@[simp] theorem acknowledge_rxlen : (acknowledge s).rxlen = s.rxlen := rfl
@[simp] theorem acknowledge_paylen : (acknowledge s).paylen = s.paylen := rfl
@[simp] theorem acknowledge_settle : (acknowledge s).settle = s.settle := rfl
@[simp] theorem acknowledge_crcr : (acknowledge s).crcr = s.crcr := rfl
@[simp] theorem acknowledge_paybuf : (acknowledge s).paybuf = s.paybuf := rfl
@[simp] theorem acknowledge_txbuf : (acknowledge s).txbuf = s.txbuf := rfl
@[simp] theorem acknowledge_rxbuf : (acknowledge s).rxbuf = s.rxbuf := rfl
@[simp] theorem acknowledge_scnt : (acknowledge s).scnt = s.scnt := rfl
@[simp] theorem acknowledge_chin : (acknowledge s).chin = s.chin := rfl
@[simp] theorem acknowledge_wire : (acknowledge s).wire = s.wire := rfl
@[simp] theorem acknowledge_chOpen : (acknowledge s).chOpen = s.chOpen := rfl
@[simp] theorem acknowledge_resetLine : (acknowledge s).resetLine = s.resetLine := rfl
@[simp] theorem acknowledge_prog : (acknowledge s).prog = s.prog := rfl
@[simp] theorem acknowledge_turns : (acknowledge s).turns = s.turns := rfl
@[simp] theorem acknowledge_readData : (acknowledge s).readData = s.readData := rfl
@[simp] theorem acknowledge_resets : (acknowledge s).resets = s.resets := rfl
@[simp] theorem acknowledge_draws : (acknowledge s).draws = s.draws := rfl

/-! `finish` (`43_transaction.md` R127). -/

@[simp] theorem finish_busy (k : Kind) (e : Byte) (p : Word) : (finish k e p s).busy = false := rfl
@[simp] theorem finish_done (k : Kind) (e : Byte) (p : Word) : (finish k e p s).done = true := rfl
@[simp] theorem finish_err (k : Kind) (e : Byte) (p : Word) : (finish k e p s).err = s.err := rfl
@[simp] theorem finish_phase (k : Kind) (e : Byte) (p : Word) : (finish k e p s).phase = .idle := rfl
@[simp] theorem finish_kind (k : Kind) (e : Byte) (p : Word) : (finish k e p s).kind = k := rfl
@[simp] theorem finish_exc (k : Kind) (e : Byte) (p : Word) : (finish k e p s).exc = e := rfl
@[simp] theorem finish_sid (k : Kind) (e : Byte) (p : Word) : (finish k e p s).sid = s.sid := rfl
@[simp] theorem finish_fc (k : Kind) (e : Byte) (p : Word) : (finish k e p s).fc = s.fc := rfl
@[simp] theorem finish_addr (k : Kind) (e : Byte) (p : Word) : (finish k e p s).addr = s.addr := rfl
@[simp] theorem finish_data (k : Kind) (e : Byte) (p : Word) : (finish k e p s).data = s.data := rfl
@[simp] theorem finish_plen (k : Kind) (e : Byte) (p : Word) : (finish k e p s).plen = s.plen := rfl
@[simp] theorem finish_txlen (k : Kind) (e : Byte) (p : Word) : (finish k e p s).txlen = s.txlen := rfl
@[simp] theorem finish_esid (k : Kind) (e : Byte) (p : Word) : (finish k e p s).esid = s.esid := rfl
@[simp] theorem finish_efc (k : Kind) (e : Byte) (p : Word) : (finish k e p s).efc = s.efc := rfl
@[simp] theorem finish_rxlen (k : Kind) (e : Byte) (p : Word) : (finish k e p s).rxlen = s.rxlen := rfl
@[simp] theorem finish_paylen (k : Kind) (e : Byte) (p : Word) : (finish k e p s).paylen = p := rfl
@[simp] theorem finish_settle (k : Kind) (e : Byte) (p : Word) : (finish k e p s).settle = s.settle := rfl
@[simp] theorem finish_crcr (k : Kind) (e : Byte) (p : Word) : (finish k e p s).crcr = s.crcr := rfl
@[simp] theorem finish_paybuf (k : Kind) (e : Byte) (p : Word) : (finish k e p s).paybuf = s.paybuf := rfl
@[simp] theorem finish_txbuf (k : Kind) (e : Byte) (p : Word) : (finish k e p s).txbuf = s.txbuf := rfl
@[simp] theorem finish_rxbuf (k : Kind) (e : Byte) (p : Word) : (finish k e p s).rxbuf = s.rxbuf := rfl
@[simp] theorem finish_scnt (k : Kind) (e : Byte) (p : Word) : (finish k e p s).scnt = s.scnt := rfl
@[simp] theorem finish_chin (k : Kind) (e : Byte) (p : Word) : (finish k e p s).chin = s.chin := rfl
@[simp] theorem finish_wire (k : Kind) (e : Byte) (p : Word) : (finish k e p s).wire = s.wire := rfl
@[simp] theorem finish_chOpen (k : Kind) (e : Byte) (p : Word) : (finish k e p s).chOpen = s.chOpen := rfl
@[simp] theorem finish_resetLine (k : Kind) (e : Byte) (p : Word) : (finish k e p s).resetLine = s.resetLine := rfl
@[simp] theorem finish_prog (k : Kind) (e : Byte) (p : Word) : (finish k e p s).prog = s.prog := rfl
@[simp] theorem finish_turns (k : Kind) (e : Byte) (p : Word) : (finish k e p s).turns = s.turns := rfl
@[simp] theorem finish_readData (k : Kind) (e : Byte) (p : Word) : (finish k e p s).readData = s.readData := rfl
@[simp] theorem finish_resets (k : Kind) (e : Byte) (p : Word) : (finish k e p s).resets = s.resets := rfl
@[simp] theorem finish_draws (k : Kind) (e : Byte) (p : Word) : (finish k e p s).draws = s.draws := rfl

/-! `recordOutcome` (`42_frame_parse.md` R111). -/

@[simp] theorem recordOutcome_busy (r : Kind × Byte × Nat) : (recordOutcome r s).busy = s.busy := rfl
@[simp] theorem recordOutcome_done (r : Kind × Byte × Nat) : (recordOutcome r s).done = true := rfl
@[simp] theorem recordOutcome_err (r : Kind × Byte × Nat) : (recordOutcome r s).err = s.err := rfl
@[simp] theorem recordOutcome_phase (r : Kind × Byte × Nat) : (recordOutcome r s).phase = s.phase := rfl
@[simp] theorem recordOutcome_kind (r : Kind × Byte × Nat) : (recordOutcome r s).kind = r.1 := rfl
@[simp] theorem recordOutcome_exc (r : Kind × Byte × Nat) : (recordOutcome r s).exc = r.2.1 := rfl
@[simp] theorem recordOutcome_sid (r : Kind × Byte × Nat) : (recordOutcome r s).sid = s.sid := rfl
@[simp] theorem recordOutcome_fc (r : Kind × Byte × Nat) : (recordOutcome r s).fc = s.fc := rfl
@[simp] theorem recordOutcome_addr (r : Kind × Byte × Nat) : (recordOutcome r s).addr = s.addr := rfl
@[simp] theorem recordOutcome_data (r : Kind × Byte × Nat) : (recordOutcome r s).data = s.data := rfl
@[simp] theorem recordOutcome_plen (r : Kind × Byte × Nat) : (recordOutcome r s).plen = s.plen := rfl
@[simp] theorem recordOutcome_txlen (r : Kind × Byte × Nat) : (recordOutcome r s).txlen = s.txlen := rfl
@[simp] theorem recordOutcome_esid (r : Kind × Byte × Nat) : (recordOutcome r s).esid = s.esid := rfl
@[simp] theorem recordOutcome_efc (r : Kind × Byte × Nat) : (recordOutcome r s).efc = s.efc := rfl
@[simp] theorem recordOutcome_rxlen (r : Kind × Byte × Nat) : (recordOutcome r s).rxlen = s.rxlen := rfl
@[simp] theorem recordOutcome_paylen (r : Kind × Byte × Nat) : (recordOutcome r s).paylen = BitVec.ofNat 16 r.2.2 := rfl
@[simp] theorem recordOutcome_settle (r : Kind × Byte × Nat) : (recordOutcome r s).settle = s.settle := rfl
@[simp] theorem recordOutcome_crcr (r : Kind × Byte × Nat) : (recordOutcome r s).crcr = s.crcr := rfl
@[simp] theorem recordOutcome_paybuf (r : Kind × Byte × Nat) : (recordOutcome r s).paybuf = s.paybuf := rfl
@[simp] theorem recordOutcome_txbuf (r : Kind × Byte × Nat) : (recordOutcome r s).txbuf = s.txbuf := rfl
@[simp] theorem recordOutcome_rxbuf (r : Kind × Byte × Nat) : (recordOutcome r s).rxbuf = s.rxbuf := rfl
@[simp] theorem recordOutcome_scnt (r : Kind × Byte × Nat) : (recordOutcome r s).scnt = s.scnt := rfl
@[simp] theorem recordOutcome_chin (r : Kind × Byte × Nat) : (recordOutcome r s).chin = s.chin := rfl
@[simp] theorem recordOutcome_wire (r : Kind × Byte × Nat) : (recordOutcome r s).wire = s.wire := rfl
@[simp] theorem recordOutcome_chOpen (r : Kind × Byte × Nat) : (recordOutcome r s).chOpen = s.chOpen := rfl
@[simp] theorem recordOutcome_resetLine (r : Kind × Byte × Nat) : (recordOutcome r s).resetLine = s.resetLine := rfl
@[simp] theorem recordOutcome_prog (r : Kind × Byte × Nat) : (recordOutcome r s).prog = s.prog := rfl
@[simp] theorem recordOutcome_turns (r : Kind × Byte × Nat) : (recordOutcome r s).turns = s.turns := rfl
@[simp] theorem recordOutcome_readData (r : Kind × Byte × Nat) : (recordOutcome r s).readData = s.readData := rfl
@[simp] theorem recordOutcome_resets (r : Kind × Byte × Nat) : (recordOutcome r s).resets = s.resets := rfl
@[simp] theorem recordOutcome_draws (r : Kind × Byte × Nat) : (recordOutcome r s).draws = s.draws := rfl

/-! `acceptXfer` (`43_transaction.md` R121). -/

@[simp] theorem acceptXfer_busy : (acceptXfer s).busy = true := rfl
@[simp] theorem acceptXfer_done : (acceptXfer s).done = false := rfl
@[simp] theorem acceptXfer_err : (acceptXfer s).err = s.err := rfl
@[simp] theorem acceptXfer_phase : (acceptXfer s).phase = .flush := rfl
@[simp] theorem acceptXfer_kind : (acceptXfer s).kind = .noOutcome := rfl
@[simp] theorem acceptXfer_exc : (acceptXfer s).exc = 0 := rfl
@[simp] theorem acceptXfer_sid : (acceptXfer s).sid = s.sid := rfl
@[simp] theorem acceptXfer_fc : (acceptXfer s).fc = s.fc := rfl
@[simp] theorem acceptXfer_addr : (acceptXfer s).addr = s.addr := rfl
@[simp] theorem acceptXfer_data : (acceptXfer s).data = s.data := rfl
@[simp] theorem acceptXfer_plen : (acceptXfer s).plen = s.plen := rfl
@[simp] theorem acceptXfer_txlen : (acceptXfer s).txlen = s.txlen := rfl
@[simp] theorem acceptXfer_esid : (acceptXfer s).esid = s.esid := rfl
@[simp] theorem acceptXfer_efc : (acceptXfer s).efc = s.efc := rfl
@[simp] theorem acceptXfer_rxlen : (acceptXfer s).rxlen = 0 := rfl
@[simp] theorem acceptXfer_paylen : (acceptXfer s).paylen = 0 := rfl
@[simp] theorem acceptXfer_settle : (acceptXfer s).settle = s.settle := rfl
@[simp] theorem acceptXfer_crcr : (acceptXfer s).crcr = s.crcr := rfl
@[simp] theorem acceptXfer_paybuf : (acceptXfer s).paybuf = s.paybuf := rfl
@[simp] theorem acceptXfer_txbuf : (acceptXfer s).txbuf = s.txbuf := rfl
@[simp] theorem acceptXfer_rxbuf : (acceptXfer s).rxbuf = s.rxbuf := rfl
@[simp] theorem acceptXfer_scnt : (acceptXfer s).scnt = s.scnt := rfl
@[simp] theorem acceptXfer_chin : (acceptXfer s).chin = s.chin := rfl
@[simp] theorem acceptXfer_wire : (acceptXfer s).wire = s.wire := rfl
@[simp] theorem acceptXfer_chOpen : (acceptXfer s).chOpen = s.chOpen := rfl
@[simp] theorem acceptXfer_resetLine : (acceptXfer s).resetLine = s.resetLine := rfl
@[simp] theorem acceptXfer_prog : (acceptXfer s).prog = s.prog := rfl
@[simp] theorem acceptXfer_turns : (acceptXfer s).turns = s.turns := rfl
@[simp] theorem acceptXfer_readData : (acceptXfer s).readData = s.readData := rfl
@[simp] theorem acceptXfer_resets : (acceptXfer s).resets = s.resets := rfl
@[simp] theorem acceptXfer_draws : (acceptXfer s).draws = s.draws := rfl

/-! `chReset` (`60_exceptions.md` R164). -/

@[simp] theorem chReset_busy : (chReset s).busy = s.busy := rfl
@[simp] theorem chReset_done : (chReset s).done = s.done := rfl
@[simp] theorem chReset_err : (chReset s).err = s.err := rfl
@[simp] theorem chReset_phase : (chReset s).phase = s.phase := rfl
@[simp] theorem chReset_kind : (chReset s).kind = s.kind := rfl
@[simp] theorem chReset_exc : (chReset s).exc = s.exc := rfl
@[simp] theorem chReset_sid : (chReset s).sid = s.sid := rfl
@[simp] theorem chReset_fc : (chReset s).fc = s.fc := rfl
@[simp] theorem chReset_addr : (chReset s).addr = s.addr := rfl
@[simp] theorem chReset_data : (chReset s).data = s.data := rfl
@[simp] theorem chReset_plen : (chReset s).plen = s.plen := rfl
@[simp] theorem chReset_txlen : (chReset s).txlen = s.txlen := rfl
@[simp] theorem chReset_esid : (chReset s).esid = s.esid := rfl
@[simp] theorem chReset_efc : (chReset s).efc = s.efc := rfl
@[simp] theorem chReset_rxlen : (chReset s).rxlen = s.rxlen := rfl
@[simp] theorem chReset_paylen : (chReset s).paylen = s.paylen := rfl
@[simp] theorem chReset_settle : (chReset s).settle = s.settle := rfl
@[simp] theorem chReset_crcr : (chReset s).crcr = s.crcr := rfl
@[simp] theorem chReset_paybuf : (chReset s).paybuf = s.paybuf := rfl
@[simp] theorem chReset_txbuf : (chReset s).txbuf = s.txbuf := rfl
@[simp] theorem chReset_rxbuf : (chReset s).rxbuf = s.rxbuf := rfl
@[simp] theorem chReset_scnt : (chReset s).scnt = s.scnt := rfl
@[simp] theorem chReset_chin : (chReset s).chin = [] := rfl
@[simp] theorem chReset_wire : (chReset s).wire = s.wire := rfl
@[simp] theorem chReset_chOpen : (chReset s).chOpen = s.chOpen := rfl
@[simp] theorem chReset_resetLine : (chReset s).resetLine = s.resetLine := rfl
@[simp] theorem chReset_prog : (chReset s).prog = s.prog := rfl
@[simp] theorem chReset_turns : (chReset s).turns = s.turns := rfl
@[simp] theorem chReset_readData : (chReset s).readData = s.readData := rfl
@[simp] theorem chReset_resets : (chReset s).resets = s.resets := rfl
@[simp] theorem chReset_draws : (chReset s).draws = s.draws := rfl

/-! `chWrite` (`60_exceptions.md` R165). -/

@[simp] theorem chWrite_busy (bytes : List Byte) : (chWrite bytes s).busy = s.busy := rfl
@[simp] theorem chWrite_done (bytes : List Byte) : (chWrite bytes s).done = s.done := rfl
@[simp] theorem chWrite_err (bytes : List Byte) : (chWrite bytes s).err = s.err := rfl
@[simp] theorem chWrite_phase (bytes : List Byte) : (chWrite bytes s).phase = s.phase := rfl
@[simp] theorem chWrite_kind (bytes : List Byte) : (chWrite bytes s).kind = s.kind := rfl
@[simp] theorem chWrite_exc (bytes : List Byte) : (chWrite bytes s).exc = s.exc := rfl
@[simp] theorem chWrite_sid (bytes : List Byte) : (chWrite bytes s).sid = s.sid := rfl
@[simp] theorem chWrite_fc (bytes : List Byte) : (chWrite bytes s).fc = s.fc := rfl
@[simp] theorem chWrite_addr (bytes : List Byte) : (chWrite bytes s).addr = s.addr := rfl
@[simp] theorem chWrite_data (bytes : List Byte) : (chWrite bytes s).data = s.data := rfl
@[simp] theorem chWrite_plen (bytes : List Byte) : (chWrite bytes s).plen = s.plen := rfl
@[simp] theorem chWrite_txlen (bytes : List Byte) : (chWrite bytes s).txlen = s.txlen := rfl
@[simp] theorem chWrite_esid (bytes : List Byte) : (chWrite bytes s).esid = s.esid := rfl
@[simp] theorem chWrite_efc (bytes : List Byte) : (chWrite bytes s).efc = s.efc := rfl
@[simp] theorem chWrite_rxlen (bytes : List Byte) : (chWrite bytes s).rxlen = s.rxlen := rfl
@[simp] theorem chWrite_paylen (bytes : List Byte) : (chWrite bytes s).paylen = s.paylen := rfl
@[simp] theorem chWrite_settle (bytes : List Byte) : (chWrite bytes s).settle = s.settle := rfl
@[simp] theorem chWrite_crcr (bytes : List Byte) : (chWrite bytes s).crcr = s.crcr := rfl
@[simp] theorem chWrite_paybuf (bytes : List Byte) : (chWrite bytes s).paybuf = s.paybuf := rfl
@[simp] theorem chWrite_txbuf (bytes : List Byte) : (chWrite bytes s).txbuf = s.txbuf := rfl
@[simp] theorem chWrite_rxbuf (bytes : List Byte) : (chWrite bytes s).rxbuf = s.rxbuf := rfl
@[simp] theorem chWrite_scnt (bytes : List Byte) : (chWrite bytes s).scnt = s.scnt := rfl
@[simp] theorem chWrite_chin (bytes : List Byte) : (chWrite bytes s).chin = s.chin := rfl
@[simp] theorem chWrite_wire (bytes : List Byte) : (chWrite bytes s).wire = s.wire ++ [bytes] := rfl
@[simp] theorem chWrite_chOpen (bytes : List Byte) : (chWrite bytes s).chOpen = s.chOpen := rfl
@[simp] theorem chWrite_resetLine (bytes : List Byte) : (chWrite bytes s).resetLine = s.resetLine := rfl
@[simp] theorem chWrite_prog (bytes : List Byte) : (chWrite bytes s).prog = s.prog := rfl
@[simp] theorem chWrite_turns (bytes : List Byte) : (chWrite bytes s).turns = s.turns := rfl
@[simp] theorem chWrite_readData (bytes : List Byte) : (chWrite bytes s).readData = s.readData := rfl
@[simp] theorem chWrite_resets (bytes : List Byte) : (chWrite bytes s).resets = s.resets := rfl
@[simp] theorem chWrite_draws (bytes : List Byte) : (chWrite bytes s).draws = s.draws := rfl

/-! `ownerTurn` (`60_exceptions.md` R163). -/

@[simp] theorem ownerTurn_busy (level : Bool) : (ownerTurn level s).busy = s.busy := rfl
@[simp] theorem ownerTurn_done (level : Bool) : (ownerTurn level s).done = s.done := rfl
@[simp] theorem ownerTurn_err (level : Bool) : (ownerTurn level s).err = s.err := rfl
@[simp] theorem ownerTurn_phase (level : Bool) : (ownerTurn level s).phase = s.phase := rfl
@[simp] theorem ownerTurn_kind (level : Bool) : (ownerTurn level s).kind = s.kind := rfl
@[simp] theorem ownerTurn_exc (level : Bool) : (ownerTurn level s).exc = s.exc := rfl
@[simp] theorem ownerTurn_sid (level : Bool) : (ownerTurn level s).sid = s.sid := rfl
@[simp] theorem ownerTurn_fc (level : Bool) : (ownerTurn level s).fc = s.fc := rfl
@[simp] theorem ownerTurn_addr (level : Bool) : (ownerTurn level s).addr = s.addr := rfl
@[simp] theorem ownerTurn_data (level : Bool) : (ownerTurn level s).data = s.data := rfl
@[simp] theorem ownerTurn_plen (level : Bool) : (ownerTurn level s).plen = s.plen := rfl
@[simp] theorem ownerTurn_txlen (level : Bool) : (ownerTurn level s).txlen = s.txlen := rfl
@[simp] theorem ownerTurn_esid (level : Bool) : (ownerTurn level s).esid = s.esid := rfl
@[simp] theorem ownerTurn_efc (level : Bool) : (ownerTurn level s).efc = s.efc := rfl
@[simp] theorem ownerTurn_rxlen (level : Bool) : (ownerTurn level s).rxlen = s.rxlen := rfl
@[simp] theorem ownerTurn_paylen (level : Bool) : (ownerTurn level s).paylen = s.paylen := rfl
@[simp] theorem ownerTurn_settle (level : Bool) : (ownerTurn level s).settle = s.settle := rfl
@[simp] theorem ownerTurn_crcr (level : Bool) : (ownerTurn level s).crcr = s.crcr := rfl
@[simp] theorem ownerTurn_paybuf (level : Bool) : (ownerTurn level s).paybuf = s.paybuf := rfl
@[simp] theorem ownerTurn_txbuf (level : Bool) : (ownerTurn level s).txbuf = s.txbuf := rfl
@[simp] theorem ownerTurn_rxbuf (level : Bool) : (ownerTurn level s).rxbuf = s.rxbuf := rfl
@[simp] theorem ownerTurn_scnt (level : Bool) : (ownerTurn level s).scnt = s.scnt := rfl
@[simp] theorem ownerTurn_chin (level : Bool) : (ownerTurn level s).chin = s.chin := rfl
@[simp] theorem ownerTurn_wire (level : Bool) : (ownerTurn level s).wire = s.wire := rfl
@[simp] theorem ownerTurn_chOpen (level : Bool) : (ownerTurn level s).chOpen = level := rfl
@[simp] theorem ownerTurn_resetLine (level : Bool) : (ownerTurn level s).resetLine = s.resetLine := rfl
@[simp] theorem ownerTurn_prog (level : Bool) : (ownerTurn level s).prog = s.prog := rfl
@[simp] theorem ownerTurn_turns (level : Bool) : (ownerTurn level s).turns = s.turns := rfl
@[simp] theorem ownerTurn_readData (level : Bool) : (ownerTurn level s).readData = s.readData := rfl
@[simp] theorem ownerTurn_resets (level : Bool) : (ownerTurn level s).resets = s.resets := rfl
@[simp] theorem ownerTurn_draws (level : Bool) : (ownerTurn level s).draws = s.draws := rfl

/-! `resetEngine`: the table of `10_state.md` R36; the environment and the model's own fields stay. -/

@[simp] theorem resetEngine_busy : (resetEngine s).busy = false := rfl
@[simp] theorem resetEngine_done : (resetEngine s).done = false := rfl
@[simp] theorem resetEngine_err : (resetEngine s).err = false := rfl
@[simp] theorem resetEngine_phase : (resetEngine s).phase = .idle := rfl
@[simp] theorem resetEngine_kind : (resetEngine s).kind = .noOutcome := rfl
@[simp] theorem resetEngine_exc : (resetEngine s).exc = 0 := rfl
@[simp] theorem resetEngine_sid : (resetEngine s).sid = 0 := rfl
@[simp] theorem resetEngine_fc : (resetEngine s).fc = 0 := rfl
@[simp] theorem resetEngine_addr : (resetEngine s).addr = 0 := rfl
@[simp] theorem resetEngine_data : (resetEngine s).data = 0 := rfl
@[simp] theorem resetEngine_plen : (resetEngine s).plen = 0 := rfl
@[simp] theorem resetEngine_txlen : (resetEngine s).txlen = 0 := rfl
@[simp] theorem resetEngine_esid : (resetEngine s).esid = 0 := rfl
@[simp] theorem resetEngine_efc : (resetEngine s).efc = 0 := rfl
@[simp] theorem resetEngine_rxlen : (resetEngine s).rxlen = 0 := rfl
@[simp] theorem resetEngine_paylen : (resetEngine s).paylen = 0 := rfl
@[simp] theorem resetEngine_settle : (resetEngine s).settle = 100 := rfl
@[simp] theorem resetEngine_crcr : (resetEngine s).crcr = 0xFFFF := rfl
@[simp] theorem resetEngine_paybuf : (resetEngine s).paybuf = [] := rfl
@[simp] theorem resetEngine_txbuf : (resetEngine s).txbuf = [] := rfl
@[simp] theorem resetEngine_rxbuf : (resetEngine s).rxbuf = [] := rfl
@[simp] theorem resetEngine_scnt : (resetEngine s).scnt = 0 := rfl
@[simp] theorem resetEngine_chin : (resetEngine s).chin = s.chin := rfl
@[simp] theorem resetEngine_wire : (resetEngine s).wire = s.wire := rfl
@[simp] theorem resetEngine_chOpen : (resetEngine s).chOpen = s.chOpen := rfl
@[simp] theorem resetEngine_resetLine : (resetEngine s).resetLine = s.resetLine := rfl
@[simp] theorem resetEngine_prog : (resetEngine s).prog = s.prog := rfl
@[simp] theorem resetEngine_turns : (resetEngine s).turns = s.turns := rfl
@[simp] theorem resetEngine_readData : (resetEngine s).readData = s.readData := rfl
@[simp] theorem resetEngine_resets : (resetEngine s).resets = s.resets := rfl
@[simp] theorem resetEngine_draws : (resetEngine s).draws = s.draws := rfl

/-! `withBuffer` writes the one buffer alone. -/

theorem withBuffer_paybuf (m : Memory) : withBuffer s .paybuf m = { s with paybuf := m } := rfl
theorem withBuffer_txbuf (m : Memory) : withBuffer s .txbuf m = { s with txbuf := m } := rfl
theorem withBuffer_rxbuf (m : Memory) : withBuffer s .rxbuf m = { s with rxbuf := m } := rfl
@[simp] theorem withBuffer_busy (S : Buffer) (m : Memory) : (withBuffer s S m).busy = s.busy := by cases S <;> rfl
@[simp] theorem withBuffer_done (S : Buffer) (m : Memory) : (withBuffer s S m).done = s.done := by cases S <;> rfl
@[simp] theorem withBuffer_err (S : Buffer) (m : Memory) : (withBuffer s S m).err = s.err := by cases S <;> rfl
@[simp] theorem withBuffer_phase (S : Buffer) (m : Memory) : (withBuffer s S m).phase = s.phase := by cases S <;> rfl
@[simp] theorem withBuffer_kind (S : Buffer) (m : Memory) : (withBuffer s S m).kind = s.kind := by cases S <;> rfl
@[simp] theorem withBuffer_exc (S : Buffer) (m : Memory) : (withBuffer s S m).exc = s.exc := by cases S <;> rfl
@[simp] theorem withBuffer_sid (S : Buffer) (m : Memory) : (withBuffer s S m).sid = s.sid := by cases S <;> rfl
@[simp] theorem withBuffer_fc (S : Buffer) (m : Memory) : (withBuffer s S m).fc = s.fc := by cases S <;> rfl
@[simp] theorem withBuffer_addr (S : Buffer) (m : Memory) : (withBuffer s S m).addr = s.addr := by cases S <;> rfl
@[simp] theorem withBuffer_data (S : Buffer) (m : Memory) : (withBuffer s S m).data = s.data := by cases S <;> rfl
@[simp] theorem withBuffer_plen (S : Buffer) (m : Memory) : (withBuffer s S m).plen = s.plen := by cases S <;> rfl
@[simp] theorem withBuffer_txlen (S : Buffer) (m : Memory) : (withBuffer s S m).txlen = s.txlen := by cases S <;> rfl
@[simp] theorem withBuffer_esid (S : Buffer) (m : Memory) : (withBuffer s S m).esid = s.esid := by cases S <;> rfl
@[simp] theorem withBuffer_efc (S : Buffer) (m : Memory) : (withBuffer s S m).efc = s.efc := by cases S <;> rfl
@[simp] theorem withBuffer_rxlen (S : Buffer) (m : Memory) : (withBuffer s S m).rxlen = s.rxlen := by cases S <;> rfl
@[simp] theorem withBuffer_paylen (S : Buffer) (m : Memory) : (withBuffer s S m).paylen = s.paylen := by cases S <;> rfl
@[simp] theorem withBuffer_settle (S : Buffer) (m : Memory) : (withBuffer s S m).settle = s.settle := by cases S <;> rfl
@[simp] theorem withBuffer_crcr (S : Buffer) (m : Memory) : (withBuffer s S m).crcr = s.crcr := by cases S <;> rfl
@[simp] theorem withBuffer_scnt (S : Buffer) (m : Memory) : (withBuffer s S m).scnt = s.scnt := by cases S <;> rfl
@[simp] theorem withBuffer_chin (S : Buffer) (m : Memory) : (withBuffer s S m).chin = s.chin := by cases S <;> rfl
@[simp] theorem withBuffer_wire (S : Buffer) (m : Memory) : (withBuffer s S m).wire = s.wire := by cases S <;> rfl
@[simp] theorem withBuffer_chOpen (S : Buffer) (m : Memory) : (withBuffer s S m).chOpen = s.chOpen := by cases S <;> rfl
@[simp] theorem withBuffer_resetLine (S : Buffer) (m : Memory) : (withBuffer s S m).resetLine = s.resetLine := by cases S <;> rfl
@[simp] theorem withBuffer_prog (S : Buffer) (m : Memory) : (withBuffer s S m).prog = s.prog := by cases S <;> rfl
@[simp] theorem withBuffer_turns (S : Buffer) (m : Memory) : (withBuffer s S m).turns = s.turns := by cases S <;> rfl
@[simp] theorem withBuffer_readData (S : Buffer) (m : Memory) : (withBuffer s S m).readData = s.readData := by cases S <;> rfl
@[simp] theorem withBuffer_resets (S : Buffer) (m : Memory) : (withBuffer s S m).resets = s.resets := by cases S <;> rfl
@[simp] theorem withBuffer_draws (S : Buffer) (m : Memory) : (withBuffer s S m).draws = s.draws := by cases S <;> rfl

@[simp] theorem bufferOf_withBuffer (S : Buffer) (m : Memory) : bufferOf (withBuffer s S m) S = m := by
  cases S <;> rfl

theorem bufferOf_withBuffer_ne {S T : Buffer} (h : T ≠ S) (m : Memory) :
    bufferOf (withBuffer s S m) T = bufferOf s T := by
  cases S <;> cases T <;> first | rfl | exact absurd rfl h

@[simp] theorem resetEngine_idem : resetEngine (resetEngine s) = resetEngine s := rfl

end Sys2Proof.Machine
end

