-- ==== Sys2Proof/Laws/Memory.lean ====
section
/-! SUPPORT. The laws of the buffers: a byte written is read back and no other byte changes, every operation keeps
the canonical form and the bound on the indexes, and what `memRead` and `memWrite` answer, once. -/

namespace Sys2Proof.Machine

/-! ### One buffer -/

theorem Memory.byteAt_store (m : Memory) (a b : Nat) (v : Byte) :
    Memory.byteAt (Memory.store m a v) b = if b = a then some v else Memory.byteAt m b := by
  induction m with
  | nil =>
    simp only [Memory.store, Memory.byteAt]
    split <;> simp
  | cons x m ih =>
    obtain ⟨k, c⟩ := x
    simp only [Memory.store]
    split
    · subst a
      simp only [Memory.byteAt]
      split <;> rfl
    · split
      · simp only [Memory.byteAt]
        split
        · rfl
        · split
          · split
            · omega
            · split
              · rfl
              · omega
          · rfl
      · simp only [Memory.byteAt, ih]
        split
        · split
          · omega
          · rfl
        · split
          · split
            · omega
            · rfl
          · rfl

theorem Memory.mem_store {m : Memory} {a : Nat} {v : Byte} {x : Host.Cell} (h : x ∈ Memory.store m a v) :
    x = (a, v) ∨ x ∈ m := by
  induction m with
  | nil => simpa [Memory.store] using h
  | cons y m ih =>
    obtain ⟨k, c⟩ := y
    simp only [Memory.store] at h
    split at h
    · simp only [List.mem_cons] at h ⊢
      tauto
    · split at h
      · simpa using h
      · simp only [List.mem_cons] at h ⊢
        rcases h with h | h
        · exact .inr (.inl h)
        · exact (ih h).imp id .inr

theorem Memory.wf_store (m : Memory) (a : Nat) (v : Byte) (h : Memory.wf m) : Memory.wf (Memory.store m a v) := by
  induction m with
  | nil => simp [Memory.store, Memory.wf]
  | cons x m ih =>
    obtain ⟨k, c⟩ := x
    have hk : ∀ y ∈ m, k < y.1 := (List.pairwise_cons.1 h).1
    have hm : Memory.wf m := (List.pairwise_cons.1 h).2
    simp only [Memory.store]
    split
    · subst a
      exact List.pairwise_cons.2 ⟨hk, hm⟩
    · split
      · refine List.pairwise_cons.2 ⟨fun y hy => ?_, h⟩
        rcases List.mem_cons.1 hy with rfl | hy
        · assumption
        · have := hk y hy
          simp only at *
          omega
      · refine List.pairwise_cons.2 ⟨fun y hy => ?_, ih hm⟩
        rcases Memory.mem_store hy with rfl | hy
        · simp only at *
          omega
        · exact hk y hy

theorem Memory.below_store {m : Memory} {a n : Nat} {v : Byte} (h : Memory.below m n) (ha : a < n) :
    Memory.below (Memory.store m a v) n := by
  intro x hx
  rcases Memory.mem_store hx with rfl | hx
  · exact ha
  · exact h x hx

theorem Memory.wf_storeAll (m : Memory) (i : Nat) (bs : List Byte) (h : Memory.wf m) :
    Memory.wf (Memory.storeAll m i bs) := by
  induction bs generalizing m i with
  | nil => exact h
  | cons b bs ih => exact ih _ _ (Memory.wf_store m i b h)

theorem Memory.below_storeAll {m : Memory} {i n : Nat} {bs : List Byte} (h : Memory.below m n)
    (hi : i + bs.length ≤ n) : Memory.below (Memory.storeAll m i bs) n := by
  induction bs generalizing m i with
  | nil => exact h
  | cons b bs ih =>
    simp only [List.length_cons] at hi
    exact ih (Memory.below_store h (by omega)) (by omega)

/-- After a sequence is written at `i`, the indexes it covers hold it and all others hold what they held. -/
theorem Memory.byteAt_storeAll (m : Memory) (i a : Nat) (bs : List Byte) :
    Memory.byteAt (Memory.storeAll m i bs) a =
      if i ≤ a ∧ a < i + bs.length then bs[a - i]? else Memory.byteAt m a := by
  induction bs generalizing m i with
  | nil =>
    have : ¬ (i ≤ a ∧ a < i + ([] : List Byte).length) := by simp
    rw [if_neg this]
    rfl
  | cons b bs ih =>
    rw [Memory.storeAll, ih, Memory.byteAt_store]
    simp only [List.length_cons]
    by_cases h1 : a = i
    · subst a
      rw [if_neg (by omega), if_pos rfl, if_pos (by omega)]
      simp
    · rw [if_neg h1]
      by_cases h2 : i + 1 ≤ a ∧ a < i + 1 + bs.length
      · rw [if_pos h2, if_pos (by omega), show a - i = (a - (i + 1)) + 1 by omega]
        simp
      · rw [if_neg h2, if_neg (by omega)]

/-! ### The bytes of a state -/

@[simp] theorem bytesOf_length (s : State) (S : Buffer) (i n : Nat) : (bytesOf s S i n).length = n := by
  simp [bytesOf]

theorem bytesOf_getElem (s : State) (S : Buffer) (i n k : Nat) (h : k < n) :
    (bytesOf s S i n)[k]'(by simpa using h) = byteOf s S (i + k) := by
  simp [bytesOf]

/-- The bytes of a buffer depend on that buffer and on the counter of the free value alone. -/
theorem byteOf_congr {s t : State} {S : Buffer} (hb : bufferOf t S = bufferOf s S) (hr : t.resets = s.resets)
    (i : Nat) : byteOf t S i = byteOf s S i := by
  simp [byteOf, hb, hr]

theorem bytesOf_congr {s t : State} {S : Buffer} (hb : bufferOf t S = bufferOf s S) (hr : t.resets = s.resets)
    (i n : Nat) : bytesOf t S i n = bytesOf s S i n := by
  simp [bytesOf, byteOf_congr hb hr]

/-- Where a buffer holds a sequence just written at `i`, reading it gives the sequence back. -/
theorem bytesOf_storeAll {s t : State} {S : Buffer} {i : Nat} {bs : List Byte}
    (hb : bufferOf t S = Memory.storeAll (bufferOf s S) i bs) : bytesOf t S i bs.length = bs := by
  apply List.ext_getElem
  · simp
  · intro k h1 h2
    rw [bytesOf_getElem _ _ _ _ _ (by simpa using h1), byteOf, hb, Memory.byteAt_storeAll,
      if_pos (by omega), show i + k - i = k by omega, List.getElem?_eq_getElem h2]
    rfl

/-- Where a buffer holds a sequence just written at `i`, every byte outside it is as it was. -/
theorem byteOf_storeAll_outside {s t : State} {S : Buffer} {i a : Nat} {bs : List Byte}
    (hb : bufferOf t S = Memory.storeAll (bufferOf s S) i bs)
    (hr : t.resets = s.resets) (ha : a < i ∨ i + bs.length ≤ a) : byteOf t S a = byteOf s S a := by
  rw [byteOf, byteOf, hb, hr, Memory.byteAt_storeAll, if_neg (by omega)]

/-! ### MemRead and MemWrite (`00_scope.md` R5) -/

/-- `memRead` answers the bytes where the range fits, and nothing else. -/
theorem memRead_ok {s : State} {S : Buffer} {i n : Nat} {bs : List Byte} :
    memRead s S i n = .ok bs ↔ i + n ≤ Config.capacity S ∧ bs = bytesOf s S i n := by
  unfold memRead
  split
  · simp_all [eq_comm]
  · simp_all

theorem memRead_fits {s : State} {S : Buffer} {i n : Nat} (h : i + n ≤ Config.capacity S) :
    memRead s S i n = .ok (bytesOf s S i n) := if_pos h

/-- `memWrite` answers the state with the bytes stored where the range fits, and nothing else. -/
theorem memWrite_ok {s t : State} {S : Buffer} {i : Nat} {bs : List Byte} :
    memWrite s S i bs = .ok t ↔
      i + bs.length ≤ Config.capacity S ∧ t = withBuffer s S (Memory.storeAll (bufferOf s S) i bs) := by
  unfold memWrite
  split
  · simp_all [eq_comm]
  · simp_all

theorem memWrite_fits {s : State} {S : Buffer} {i : Nat} {bs : List Byte}
    (h : i + bs.length ≤ Config.capacity S) :
    memWrite s S i bs = .ok (withBuffer s S (Memory.storeAll (bufferOf s S) i bs)) := if_pos h

/-- `orFault` answers a next state exactly if the buffer operation answered and what follows it did. -/
theorem orFault_next {α : Type} {r : Except Fault α} {k : α → Result} {t : State} :
    orFault r k = .next t ↔ ∃ a, r = .ok a ∧ k a = .next t := by
  cases r <;> simp [orFault]

/-- `whenIdle` answers ERR alone while busy, and what the command answers otherwise (`44_system.md` R143). -/
theorem whenIdle_next {s t : State} {k : Result} :
    whenIdle s k = .next t ↔ (s.busy = true ∧ t = raiseErr s) ∨ (s.busy = false ∧ k = .next t) := by
  unfold whenIdle
  cases s.busy <;> simp [eq_comm]

theorem whenIdle_busy {s : State} {k : Result} (h : s.busy = true) : whenIdle s k = .next (raiseErr s) := by
  simp [whenIdle, h]

theorem whenIdle_idle {s : State} {k : Result} (h : s.busy = false) : whenIdle s k = k := by
  simp [whenIdle, h]

end Sys2Proof.Machine
end

