-- ==== Sys2Proof/Laws/PerInstr.lean ====
section
/-! SUPPORT. Statements made of every instruction as syntax: the fields of its command word. -/

/-- The word of an instruction carries its op and its immediate in the fields of `30_encoding.md` R65, and those fields
are well formed (R66, R67). -/
def Sys2Proof.Laws.EncodedFields.Statement (i : Sys2Proof.Instr) : Prop :=
  Sys2Proof.opField (Sys2Proof.encode i) = i.op ∧ Sys2Proof.immField (Sys2Proof.encode i) = i.imm ∧
    i.wellFormed = true

theorem Sys2Proof.Laws.EncodedFields.nop : Sys2Proof.Laws.EncodedFields.Statement .nop := by
  refine ⟨?_, ?_, ?_⟩ <;> decide

theorem Sys2Proof.Laws.EncodedFields.clr : Sys2Proof.Laws.EncodedFields.Statement .clr := by
  refine ⟨?_, ?_, ?_⟩ <;> decide

theorem Sys2Proof.Laws.EncodedFields.crcInit : Sys2Proof.Laws.EncodedFields.Statement .crcInit := by
  refine ⟨?_, ?_, ?_⟩ <;> decide

theorem Sys2Proof.Laws.EncodedFields.crcUpd (imm8 : Sys2Proof.Byte) :
    Sys2Proof.Laws.EncodedFields.Statement (.crcUpd imm8) := by
  refine ⟨?_, ?_, rfl⟩ <;> revert imm8 <;> decide

theorem Sys2Proof.Laws.EncodedFields.bldRdh : Sys2Proof.Laws.EncodedFields.Statement .bldRdh := by
  refine ⟨?_, ?_, ?_⟩ <;> decide

theorem Sys2Proof.Laws.EncodedFields.bldRdi : Sys2Proof.Laws.EncodedFields.Statement .bldRdi := by
  refine ⟨?_, ?_, ?_⟩ <;> decide

theorem Sys2Proof.Laws.EncodedFields.bldWsr : Sys2Proof.Laws.EncodedFields.Statement .bldWsr := by
  refine ⟨?_, ?_, ?_⟩ <;> decide

theorem Sys2Proof.Laws.EncodedFields.bldCus : Sys2Proof.Laws.EncodedFields.Statement .bldCus := by
  refine ⟨?_, ?_, ?_⟩ <;> decide

theorem Sys2Proof.Laws.EncodedFields.parse : Sys2Proof.Laws.EncodedFields.Statement .parse := by
  refine ⟨?_, ?_, ?_⟩ <;> decide

theorem Sys2Proof.Laws.EncodedFields.xfer : Sys2Proof.Laws.EncodedFields.Statement .xfer := by
  refine ⟨?_, ?_, ?_⟩ <;> decide
end

