-- ==== Sys2Proof/Laws/Steps.lean ====
section
/-! SUPPORT. What each operation can do, said once: if it answers a next state, one of these cases holds. Later proofs
cite these and do not unfold a meaning. -/

namespace Sys2Proof.Machine

/-! ### Small facts of the helpers -/

@[simp] theorem onTurn_turns (t : Turn) (s : State) : (onTurn t s).turns = t :: s.turns := rfl

@[simp] theorem frameOf_length (body : List Byte) : (frameOf body).length = body.length + 2 := by
  simp [frameOf, littleEndian]

@[simp] theorem buildReg_length (sid fc : Byte) (a b : Word) : (buildReg sid fc a b).length = 8 := rfl

/-- Whatever the bytes, parse answers an outcome, with an exception code for DriverException alone and payload bytes
for Payload alone (`42_frame_parse.md` R110). -/
theorem parse_outcome (esid efc : Byte) (raw : List Byte) :
    (parse esid efc raw).1 ≠ .noOutcome ∧
    ((parse esid efc raw).2.1 ≠ 0 → (parse esid efc raw).1 = .driverException) ∧
    ((parse esid efc raw).2.2 ≠ 0 → (parse esid efc raw).1 = .payload) := by
  unfold parse
  dsimp only
  repeat' split
  all_goals simp

/-- A register number names a register exactly if it is at most 15 (`10_state.md` R11, `20_memory.md` R54). -/
theorem regOfNumber_none {n : Nat} : regOfNumber n = none ↔ 15 < n := by
  simp [regOfNumber, regFile, Nat.succ_le_iff]

theorem regOfNumber_some {n : Nat} {r : RegName} : regOfNumber n = some r ↔ n = regNumber r := by
  constructor
  · intro h
    have hn : n < 16 := by
      by_contra hc
      rw [regOfNumber_none.2 (by omega)] at h
      cases h
    interval_cases n <;> simp only [regOfNumber, regFile, List.getElem?_cons_zero, List.getElem?_cons_succ,
      Option.some.injEq] at h <;> subst h <;> rfl
  · rintro rfl
    cases r <;> rfl

/-! ### The next turn -/

theorem nextTurn_cons {s : State} {t : Turn} {rest : List Turn} (h : s.turns = t :: rest) :
    nextTurn s = (t, { s with turns := rest }) := by
  simp [nextTurn, h]

theorem nextTurn_nil {s : State} (h : s.turns = []) : nextTurn s = (quietTurn s, s) := by
  simp [nextTurn, h]

/-- The state a turn is taken in differs from `s` in the list of turns alone. -/
theorem nextTurn_state (s : State) : ∃ ts, (nextTurn s).2 = { s with turns := ts } := by
  unfold nextTurn
  split
  · exact ⟨s.turns, rfl⟩
  · exact ⟨_, rfl⟩

/-- A step with a listed turn and the reset input released is that agent's turn. -/
theorem step_onTurn {s : State} (t : Turn) (h : s.resetLine = false) : step (onTurn t s) = takeTurn t s := by
  change (if s.resetLine = true then heldInReset (takeTurn t s) else takeTurn t s) = takeTurn t s
  rw [h, if_neg Bool.false_ne_true]

/-- A step with the host's turn first makes the host's next access. -/
theorem step_onAccess {s : State} (a : HostOp) (h : s.resetLine = false) : step (onAccess a s) = access a s := by
  rw [onAccess, step_onTurn _ (by exact h)]
  rfl

/-- What a step answers, by whether the reset input is asserted. -/
theorem step_next {s t : State} (h : step s = .next t) :
    ∃ u, takeTurn (nextTurn s).1 (nextTurn s).2 = .next u ∧
      ((s.resetLine = false ∧ t = u) ∨ (s.resetLine = true ∧ t = resetEngine u)) := by
  have hr : (nextTurn s).2.resetLine = s.resetLine := by
    obtain ⟨ts, hts⟩ := nextTurn_state s
    rw [hts]
  unfold step runTurn at h
  rw [hr] at h
  cases hl : s.resetLine with
  | false => exact ⟨t, by simpa [hl] using h, .inl ⟨rfl, rfl⟩⟩
  | true =>
    rw [hl, if_pos rfl] at h
    cases hu : takeTurn (nextTurn s).1 (nextTurn s).2 with
    | next u =>
      rw [hu] at h
      exact ⟨u, rfl, .inr ⟨rfl, by simpa [heldInReset, eq_comm] using h⟩⟩
    | fault f => rw [hu] at h; simp [heldInReset] at h
    | refused f => rw [hu] at h; simp [heldInReset] at h

/-! ### Runs -/

theorem runSteps_zero (s : State) : runSteps 0 s = .next s := rfl

/-- The first step of a run that answers a next state. -/
theorem runSteps_succ {k : Nat} {s t : State} (h : step s = .next t) : runSteps (k + 1) s = runSteps k t := by
  rw [runSteps, h]

/-- A run that answers a next state has a first step that does. -/
theorem runSteps_succ_next {k : Nat} {s t : State} (h : runSteps (k + 1) s = .next t) :
    ∃ u, step s = .next u ∧ runSteps k u = .next t := by
  rw [runSteps] at h
  split at h
  · exact ⟨_, ‹_›, h⟩
  · cases h
  · cases h

@[simp] theorem onScript_nil (s : State) : onScript [] s = s := rfl

/-- The first line of a script is the host's next access on the next turn. -/
theorem onScript_cons (a : HostOp) (l : List HostOp) (s : State) :
    onScript (a :: l) s = onAccess a (onScript l s) := rfl

/-! ### Commands -/

/-- Storing a frame that fits writes TXBUF from index 0 and TXLEN, and nothing else. -/
theorem storeFrame_next {frame : List Byte} {s t : State} :
    storeFrame frame s = .next t ↔ frame.length ≤ Config.maxAdu ∧
      t = { s with txbuf := Memory.storeAll s.txbuf 0 frame, txlen := BitVec.ofNat 16 frame.length } := by
  unfold storeFrame
  rw [orFault_next]
  constructor
  · rintro ⟨a, h1, h2⟩
    obtain ⟨h3, rfl⟩ := memWrite_ok.1 h1
    refine ⟨by simpa [Config.capacity] using h3, ?_⟩
    simpa [withBuffer, bufferOf, eq_comm] using h2
  · rintro ⟨h1, rfl⟩
    exact ⟨_, memWrite_fits (by simpa [Config.capacity] using h1), rfl⟩

/-- What stands before the CRC in the frame a BLD command builds (`41_frame_build.md` R100 to R104). -/
def buildBody (s : State) : Instr → List Byte
  | .bldRdh => s.sid :: 0x03 :: (bigEndian s.addr ++ bigEndian s.data)
  | .bldRdi => s.sid :: 0x04 :: (bigEndian s.addr ++ bigEndian s.data)
  | .bldWsr => s.sid :: 0x06 :: (bigEndian s.addr ++ bigEndian s.data)
  | .bldCus => s.sid :: s.fc :: bytesOf s .paybuf 0 s.plen.toNat
  | .nop | .clr | .crcInit | .crcUpd _ | .parse | .xfer => []

/-- What a command that answers a next state has done: nothing (NOP), ERR alone while busy, or its own effect. -/
theorem exec_cases {i : Instr} {s t : State} (h : exec i s = .next t) :
    (i = .nop ∧ t = s) ∨ (i ≠ .nop ∧ s.busy = true ∧ t = raiseErr s) ∨
    (s.busy = false ∧
      ((i = .clr ∧ t = acknowledge s) ∨
       (i = .crcInit ∧ t = { s with crcr := 0xFFFF }) ∨
       (∃ b, i = .crcUpd b ∧ t = { s with crcr := crcByte s.crcr b }) ∨
       (IsBuild i ∧ (buildBody s i).length ≤ 254 ∧ (i = .bldCus → s.plen.toNat ≤ Config.maxPay) ∧
          t = { s with
            txbuf := Memory.storeAll s.txbuf 0 (frameOf (buildBody s i))
            txlen := BitVec.ofNat 16 (frameOf (buildBody s i)).length }) ∨
       (i = .parse ∧ s.rxlen.toNat ≤ Config.maxAdu ∧
          t = recordOutcome (parse s.esid s.efc (bytesOf s .rxbuf 0 s.rxlen.toNat)) s) ∨
       (i = .xfer ∧ s.txlen = 0 ∧ t = raiseErr s) ∨
       (i = .xfer ∧ s.txlen ≠ 0 ∧ t = acceptXfer s))) := by
  cases i with
  | nop =>
    left
    exact ⟨rfl, by simpa [exec, execNop, eq_comm] using h⟩
  | clr =>
    rcases whenIdle_next.1 h with ⟨hb, ht⟩ | ⟨hb, ht⟩
    · exact .inr (.inl ⟨by simp, hb, ht⟩)
    · exact .inr (.inr ⟨hb, .inl ⟨rfl, by simpa [eq_comm] using ht⟩⟩)
  | crcInit =>
    rcases whenIdle_next.1 h with ⟨hb, ht⟩ | ⟨hb, ht⟩
    · exact .inr (.inl ⟨by simp, hb, ht⟩)
    · exact .inr (.inr ⟨hb, .inr (.inl ⟨rfl, by simpa [eq_comm] using ht⟩)⟩)
  | crcUpd b =>
    rcases whenIdle_next.1 h with ⟨hb, ht⟩ | ⟨hb, ht⟩
    · exact .inr (.inl ⟨by simp, hb, ht⟩)
    · exact .inr (.inr ⟨hb, .inr (.inr (.inl ⟨b, rfl, by simpa [eq_comm] using ht⟩))⟩)
  | bldRdh =>
    rcases whenIdle_next.1 h with ⟨hb, ht⟩ | ⟨hb, ht⟩
    · exact .inr (.inl ⟨by simp, hb, ht⟩)
    · refine .inr (.inr ⟨hb, .inr (.inr (.inr (.inl ⟨.inl rfl, ?_, by simp, (storeFrame_next.1 ht).2⟩)))⟩)
      simp [buildBody, bigEndian]
  | bldRdi =>
    rcases whenIdle_next.1 h with ⟨hb, ht⟩ | ⟨hb, ht⟩
    · exact .inr (.inl ⟨by simp, hb, ht⟩)
    · refine .inr (.inr ⟨hb, .inr (.inr (.inr (.inl ⟨.inr (.inl rfl), ?_, by simp, (storeFrame_next.1 ht).2⟩)))⟩)
      simp [buildBody, bigEndian]
  | bldWsr =>
    rcases whenIdle_next.1 h with ⟨hb, ht⟩ | ⟨hb, ht⟩
    · exact .inr (.inl ⟨by simp, hb, ht⟩)
    · refine .inr (.inr ⟨hb, .inr (.inr (.inr (.inl
        ⟨.inr (.inr (.inl rfl)), ?_, by simp, (storeFrame_next.1 ht).2⟩)))⟩)
      simp [buildBody, bigEndian]
  | bldCus =>
    rcases whenIdle_next.1 h with ⟨hb, ht⟩ | ⟨hb, ht⟩
    · exact .inr (.inl ⟨by simp, hb, ht⟩)
    · obtain ⟨bs, h1, h2⟩ := orFault_next.1 ht
      obtain ⟨h3, rfl⟩ := memRead_ok.1 h1
      have hp : s.plen.toNat ≤ Config.maxPay := by simpa [Config.capacity] using h3
      refine .inr (.inr ⟨hb, .inr (.inr (.inr (.inl
        ⟨.inr (.inr (.inr rfl)), ?_, fun _ => hp, (storeFrame_next.1 h2).2⟩)))⟩)
      simp only [buildBody, List.length_cons, bytesOf_length]
      simp only [Config.maxPay] at hp
      omega
  | parse =>
    rcases whenIdle_next.1 h with ⟨hb, ht⟩ | ⟨hb, ht⟩
    · exact .inr (.inl ⟨by simp, hb, ht⟩)
    · obtain ⟨raw, h1, h2⟩ := orFault_next.1 ht
      obtain ⟨h3, rfl⟩ := memRead_ok.1 h1
      refine .inr (.inr ⟨hb, .inr (.inr (.inr (.inr (.inl ⟨rfl, by simpa [Config.capacity] using h3, ?_⟩))))⟩)
      simpa [recordOutcome, eq_comm] using h2
  | xfer =>
    rcases whenIdle_next.1 h with ⟨hb, ht⟩ | ⟨hb, ht⟩
    · exact .inr (.inl ⟨by simp, hb, ht⟩)
    · by_cases h0 : s.txlen = 0
      · rw [if_pos h0] at ht
        exact .inr (.inr ⟨hb, .inr (.inr (.inr (.inr (.inr (.inl ⟨rfl, h0, by simpa [eq_comm] using ht⟩)))))⟩)
      · rw [if_neg h0] at ht
        exact .inr (.inr ⟨hb, .inr (.inr (.inr (.inr (.inr (.inr ⟨rfl, h0, by simpa [eq_comm] using ht⟩)))))⟩)

/-- A write to CMD runs the decoded command or sets ERR alone. -/
theorem command_cases {w : Word} {s t : State} (h : command w s = .next t) :
    (∃ i, decode w = .ok i ∧ exec i s = .next t) ∨ (∃ e, decode w = .error e ∧ t = raiseErr s) := by
  unfold command at h
  split at h
  · exact .inl ⟨_, ‹_›, h⟩
  · exact .inr ⟨_, ‹_›, by simpa [eq_comm] using h⟩

/-! ### The engine -/

/-- What an engine turn that answers a next state has done. -/
theorem engineTurn_cases {s t : State} (h : engineTurn s = .next t) :
    (s.phase = .idle ∧ t = s) ∨
    ((s.phase = .flush ∨ s.phase = .send ∨ s.phase = .read) ∧ s.chOpen = false ∧
      t = finish .channelNotOpen 0 0 s) ∨
    (s.phase = .flush ∧ s.chOpen = true ∧ t = { s with chin := [], phase := .send }) ∨
    (s.phase = .send ∧ s.chOpen = true ∧ s.txlen.toNat ≤ Config.maxAdu ∧
      t = { s with wire := s.wire ++ [bytesOf s .txbuf 0 s.txlen.toNat], scnt := s.settle, phase := .settle }) ∨
    (s.phase = .settle ∧ s.scnt = 0 ∧ t = { s with phase := .read }) ∨
    (s.phase = .settle ∧ s.scnt ≠ 0 ∧ t = s) ∨
    (s.phase = .read ∧ s.chOpen = true ∧
      t = { s with
        chin := s.chin.drop 256
        rxbuf := Memory.storeAll s.rxbuf 0 (s.chin.take 256)
        rxlen := BitVec.ofNat 16 (s.chin.take 256).length
        phase := .parse }) ∨
    (s.phase = .parse ∧ s.rxlen.toNat ≤ Config.maxAdu ∧ ∃ r,
      r = parse s.esid s.efc (bytesOf s .rxbuf 0 s.rxlen.toNat) ∧
      t = finish r.1 r.2.1 (BitVec.ofNat 16 r.2.2) s) := by
  unfold engineTurn at h
  split at h
  case h_1 hp => exact .inl ⟨hp, by simpa [eq_comm] using h⟩
  case h_2 hp =>
    unfold flushStep ifOpen at h
    split at h
    · exact .inr (.inr (.inl ⟨hp, ‹_›, by simpa [chReset, eq_comm] using h⟩))
    · exact .inr (.inl ⟨.inl hp, by simpa using ‹¬ s.chOpen = true›, by simpa [eq_comm] using h⟩)
  case h_3 hp =>
    unfold sendStep ifOpen at h
    split at h
    · obtain ⟨f, h1, h2⟩ := orFault_next.1 h
      obtain ⟨h3, rfl⟩ := memRead_ok.1 h1
      refine .inr (.inr (.inr (.inl ⟨hp, ‹_›, by simpa [Config.capacity] using h3, ?_⟩)))
      simpa [chWrite, eq_comm] using h2
    · exact .inr (.inl ⟨.inr (.inl hp), by simpa using ‹¬ s.chOpen = true›, by simpa [eq_comm] using h⟩)
  case h_4 hp =>
    unfold settleStep at h
    split at h
    · exact .inr (.inr (.inr (.inr (.inl ⟨hp, ‹_›, by simpa [eq_comm] using h⟩))))
    · exact .inr (.inr (.inr (.inr (.inr (.inl ⟨hp, ‹_›, by simpa [eq_comm] using h⟩)))))
  case h_5 hp =>
    unfold readStep ifOpen at h
    split at h
    · obtain ⟨f, h1, h2⟩ := orFault_next.1 h
      obtain ⟨-, rfl⟩ := memWrite_ok.1 h1
      refine .inr (.inr (.inr (.inr (.inr (.inr (.inl ⟨hp, ‹_›, ?_⟩))))))
      simpa [chRead, withBuffer, bufferOf, eq_comm] using h2
    · exact .inr (.inl ⟨.inr (.inr hp), by simpa using ‹¬ s.chOpen = true›, by simpa [eq_comm] using h⟩)
  case h_6 hp =>
    unfold parseStep at h
    obtain ⟨f, h1, h2⟩ := orFault_next.1 h
    obtain ⟨h3, rfl⟩ := memRead_ok.1 h1
    exact .inr (.inr (.inr (.inr (.inr (.inr (.inr
      ⟨hp, by simpa [Config.capacity] using h3, _, rfl, by simpa [eq_comm] using h2⟩))))))

/-! ### The host port -/

/-- What a write of a register other than CMD does while idle: nothing, its own register, or ERR for a length above
its limit. -/
theorem writeIdle_cases (r : RegName) (v : Word) (s : State) :
    writeIdle r v s = s ∨
    (r = .sid ∧ writeIdle r v s = { s with sid := loByte v }) ∨
    (r = .fc ∧ writeIdle r v s = { s with fc := loByte v }) ∨
    (r = .addr ∧ writeIdle r v s = { s with addr := v }) ∨
    (r = .data ∧ writeIdle r v s = { s with data := v }) ∨
    (r = .plen ∧ v.toNat ≤ Config.maxPay ∧ writeIdle r v s = { s with plen := v }) ∨
    (r = .plen ∧ Config.maxPay < v.toNat ∧ writeIdle r v s = raiseErr s) ∨
    (r = .esid ∧ writeIdle r v s = { s with esid := loByte v }) ∨
    (r = .efc ∧ writeIdle r v s = { s with efc := loByte v }) ∨
    (r = .rxlen ∧ v.toNat ≤ Config.maxAdu ∧ writeIdle r v s = { s with rxlen := v }) ∨
    (r = .rxlen ∧ Config.maxAdu < v.toNat ∧ writeIdle r v s = raiseErr s) ∨
    (r = .settle ∧ writeIdle r v s = { s with settle := v }) := by
  cases r with
  | cmd | status | outcome | txlen | paylen | crcr | reserved => exact .inl rfl
  | sid => exact .inr (.inl ⟨rfl, rfl⟩)
  | fc => exact .inr (.inr (.inl ⟨rfl, rfl⟩))
  | addr => exact .inr (.inr (.inr (.inl ⟨rfl, rfl⟩)))
  | data => exact .inr (.inr (.inr (.inr (.inl ⟨rfl, rfl⟩))))
  | plen =>
    by_cases h : v.toNat ≤ Config.maxPay
    · exact .inr (.inr (.inr (.inr (.inr (.inl ⟨rfl, h, if_pos h⟩)))))
    · exact .inr (.inr (.inr (.inr (.inr (.inr (.inl ⟨rfl, by omega, if_neg h⟩))))))
  | esid => exact .inr (.inr (.inr (.inr (.inr (.inr (.inr (.inl ⟨rfl, rfl⟩)))))))
  | efc => exact .inr (.inr (.inr (.inr (.inr (.inr (.inr (.inr (.inl ⟨rfl, rfl⟩))))))))
  | rxlen =>
    by_cases h : v.toNat ≤ Config.maxAdu
    · exact .inr (.inr (.inr (.inr (.inr (.inr (.inr (.inr (.inr (.inl ⟨rfl, h, if_pos h⟩)))))))))
    · exact .inr (.inr (.inr (.inr (.inr (.inr (.inr (.inr (.inr (.inr (.inl ⟨rfl, by omega, if_neg h⟩))))))))))
  | settle => exact .inr (.inr (.inr (.inr (.inr (.inr (.inr (.inr (.inr (.inr (.inr ⟨rfl, rfl⟩))))))))))

/-- What a host access that answers a next state has done: a read leaves everything but what the host has read (and
the counter of the free value); a write of CMD is a command; a write of another register is that of the idle or the
busy engine; a write of a buffer byte likewise; WAIT reads STATUS and stays while BUSY. -/
theorem access_cases {a : HostOp} {s t : State} (h : access a s = .next t) :
    (∃ v d, t = { s with readData := v, draws := d }) ∨
    (∃ v, a = .wait ∧ s.busy = true ∧ t = { s with readData := v, prog := .wait :: s.prog }) ∨
    (∃ w, a = .writeReg 0 w ∧ command w s = .next t) ∨
    (∃ r v, r ≠ .cmd ∧ a = .writeReg (regNumber r) v ∧
      ((s.busy = true ∧ t = writeBusy r s) ∨ (s.busy = false ∧ t = writeIdle r v s))) ∨
    (∃ i b, a = .writeBuf .txbuf i b ∧ t = s) ∨
    (∃ S i b, (S = .paybuf ∨ S = .rxbuf) ∧ a = .writeBuf S i b ∧ i < Config.capacity S ∧
      ((s.busy = true ∧ t = raiseErr s) ∨
        (s.busy = false ∧ t = withBuffer s S (Memory.store (bufferOf s S) i b)))) := by
  cases a with
  | readReg n =>
    simp only [access] at h
    split at h
    · exact .inl ⟨_, s.draws, ((Host.Outcome.next.injEq _ _).mp h).symm⟩
    · cases h
  | writeReg n v =>
    simp only [access] at h
    split at h
    · rename_i r hr
      have hn := regOfNumber_some.1 hr
      by_cases hc : r = .cmd
      · subst hc hn
        exact .inr (.inr (.inl ⟨v, rfl, h⟩))
      · refine .inr (.inr (.inr (.inl ⟨r, v, hc, by rw [hn], ?_⟩)))
        have h2 : (if s.busy = true then writeBusy r s else writeIdle r v s) = t := by
          cases r <;> first | exact absurd rfl hc | exact (Host.Outcome.next.injEq _ _).mp h
        cases hb : s.busy with
        | true => exact .inl ⟨rfl, by simpa [hb, eq_comm] using h2⟩
        | false => exact .inr ⟨rfl, by simpa [hb, eq_comm] using h2⟩
    · cases h
  | readBuf S i =>
    simp only [access] at h
    split at h
    · have h2 : readByte S i s = t := (Host.Outcome.next.injEq _ _).mp h
      unfold readByte at h2
      split at h2
      · exact .inl ⟨_, s.draws, h2.symm⟩
      · exact .inl ⟨_, _, h2.symm⟩
    · cases h
  | writeBuf S i b =>
    simp only [access] at h
    split at h
    · rename_i hi
      have h2 : writeByte S i b s = t := (Host.Outcome.next.injEq _ _).mp h
      cases S with
      | txbuf => exact .inr (.inr (.inr (.inr (.inl ⟨i, b, rfl, h2.symm⟩))))
      | paybuf =>
        refine .inr (.inr (.inr (.inr (.inr ⟨.paybuf, i, b, .inl rfl, rfl, hi, ?_⟩))))
        cases hb : s.busy with
        | true => exact .inl ⟨rfl, by simpa [writeByte, hb, eq_comm] using h2⟩
        | false => exact .inr ⟨rfl, by simpa [writeByte, hb, eq_comm, withBuffer, bufferOf] using h2⟩
      | rxbuf =>
        refine .inr (.inr (.inr (.inr (.inr ⟨.rxbuf, i, b, .inr rfl, rfl, hi, ?_⟩))))
        cases hb : s.busy with
        | true => exact .inl ⟨rfl, by simpa [writeByte, hb, eq_comm] using h2⟩
        | false => exact .inr ⟨rfl, by simpa [writeByte, hb, eq_comm, withBuffer, bufferOf] using h2⟩
    · cases h
  | wait =>
    have h0 : (statusWord s).getLsbD 0 = s.busy := by
      unfold statusWord
      rw [BitVec.getLsbD_append]
      cases s.busy <;> rfl
    have h2 : (if (statusWord s).getLsbD 0 = true
        then { { s with readData := statusWord s } with prog := .wait :: s.prog }
        else { s with readData := statusWord s }) = t := (Host.Outcome.next.injEq _ _).mp h
    rw [h0] at h2
    cases hb : s.busy with
    | true =>
      rw [hb, if_pos rfl] at h2
      exact .inr (.inl ⟨statusWord s, rfl, rfl, h2.symm⟩)
    | false =>
      rw [hb, if_neg Bool.false_ne_true] at h2
      exact .inl ⟨statusWord s, s.draws, h2.symm⟩

/-- What the host's turn that answers a next state has done: nothing, or its next access. -/
theorem hostTurn_cases {s t : State} (h : hostTurn s = .next t) :
    (s.prog = [] ∧ t = s) ∨ ∃ a rest, s.prog = a :: rest ∧ access a { s with prog := rest } = .next t := by
  unfold hostTurn at h
  split at h
  · exact .inl ⟨‹_›, by simpa [eq_comm] using h⟩
  · exact .inr ⟨_, _, ‹_›, h⟩

/-- What one turn that answers a next state has done, whoever's it is. -/
theorem takeTurn_cases {x : Turn} {s u : State} (h : takeTurn x s = .next u) :
    (x = .host ∧ s.prog = [] ∧ u = s) ∨
    (x = .host ∧ ∃ a rest, s.prog = a :: rest ∧ access a { s with prog := rest } = .next u) ∨
    (x = .engine ∧ engineTurn s = .next u) ∨
    (x = .tick ∧ u = tickTurn s) ∨
    (∃ bytes, x = .remote bytes ∧ u = remoteTurn bytes s) ∨
    (∃ level, x = .owner level ∧ u = { s with chOpen := level }) ∨
    (∃ asserted, x = .reset asserted ∧ u = resetTurn asserted s) := by
  cases x with
  | host =>
    rcases hostTurn_cases h with ⟨h1, h2⟩ | ⟨a, rest, h1, h2⟩
    · exact .inl ⟨rfl, h1, h2⟩
    · exact .inr (.inl ⟨rfl, a, rest, h1, h2⟩)
  | engine => exact .inr (.inr (.inl ⟨rfl, h⟩))
  | tick => cases h; exact .inr (.inr (.inr (.inl ⟨rfl, rfl⟩)))
  | remote bytes => cases h; exact .inr (.inr (.inr (.inr (.inl ⟨bytes, rfl, rfl⟩))))
  | owner level => cases h; exact .inr (.inr (.inr (.inr (.inr (.inl ⟨level, rfl, rfl⟩)))))
  | reset asserted => cases h; exact .inr (.inr (.inr (.inr (.inr (.inr ⟨asserted, rfl, rfl⟩)))))

/-! ### Placing a command -/

/-- The very next step after a command word is placed runs that word, in the state with the reset input released. -/
theorem step_withFetchWord (s : State) (nbits w : Nat) :
    step (s.withFetchWord nbits w) = command (BitVec.ofNat 16 (w % 2 ^ nbits)) { s with resetLine := false } := rfl

end Sys2Proof.Machine
end

