-- ==== Sys2Proof/Tests/Slice0.lean ====
section
/-! SUPPORT. Small tests, each about one step or one pure function, with expected results from the worked examples and
vectors of `95_test_vectors.md` (named in each docstring) or of the rules; and for each statement with hypotheses a
witness: a concrete state and operands that meet them, clause by clause, at the boundary of their range. -/

namespace Sys2Proof.Tests

open Sys2Proof.Machine

/-! ### Helpers -/

/-- The answer is a next state of which `f` holds. -/
def after (r : Result) (f : State → Bool) : Bool :=
  match r with
  | .next t => f t
  | .fault _ => false
  | .refused _ => false

/-- The answer is this refusal. -/
def refusedAs (r : Result) (q : Refusal) : Bool :=
  match r with
  | .next _ => false
  | .fault _ => false
  | .refused p => p == q

/-- The answer is this fault. -/
def faultedAs (r : Result) (q : Fault) : Bool :=
  match r with
  | .next _ => false
  | .fault p => p == q
  | .refused _ => false

/-- An idle engine with operands. -/
def idle : State :=
  { State.reset with
    sid := 0x01, fc := 0x42, addr := 0x0108, data := 0x0001, plen := 4
    paybuf := [(0, 0x01), (1, 0x02), (2, 0x03), (3, 0x04)], esid := 0x01, efc := 0x03, chOpen := true }

/-- An idle engine with a response staged in RXBUF. -/
def staged (esid efc : Byte) (raw : List Byte) : State :=
  { idle with
    esid := esid, efc := efc, rxbuf := Memory.storeAll [] 0 raw, rxlen := BitVec.ofNat 16 raw.length }

/-- The frame of S1. -/
def frameS1 : List Byte := [0x01, 0x06, 0x00, 0x89, 0x03, 0xE8, 0x58, 0x9E]

/-- An idle engine with the frame of S1 built. -/
def built : State := { idle with txbuf := Memory.storeAll [] 0 frameS1, txlen := 8, esid := 0x01, efc := 0x06 }

/-- A transaction that stands in the phase `p`. -/
def busyIn (p : Phase) : State := { built with busy := true, phase := p }

/-- A transaction that waits for one more tick. -/
def waiting : State := { built with busy := true, phase := .settle, scnt := 1 }

/-! ### Well-formedness -/

theorem test_wf_unknown_op : opKnown 0x50 = false ∧ fieldsWellFormed 0x50 0x00 = false := by decide

theorem test_wf_zero_format : immAllowed 0x20 0x01 = false ∧ fieldsWellFormed 0x20 0x01 = false := by decide

theorem test_wf_immediate : fieldsWellFormed 0x11 0xFF = true ∧ fieldsWellFormed 0x10 0x00 = true := by decide

/-! ### Decoding: words written out from `30_encoding.md` R65 and R67, imm8 then op -/

theorem test_decode_nop : decode (0b00000000#8 ++ 0b00000000#8) = .ok .nop := by rfl

theorem test_decode_clr : decode (0b00000000#8 ++ 0b00000001#8) = .ok .clr := by rfl

theorem test_decode_crcInit : decode (0b00000000#8 ++ 0b00010000#8) = .ok .crcInit := by rfl

/-- D-CRC-8: CRC.UPD 0xE8 is 0xE811. -/
theorem test_decode_crcUpd : decode (0b11101000#8 ++ 0b00010001#8) = .ok (.crcUpd 0xE8) := by rfl

theorem test_decode_bldRdh : decode (0b00000000#8 ++ 0b00100000#8) = .ok .bldRdh := by rfl

theorem test_decode_bldRdi : decode (0b00000000#8 ++ 0b00100001#8) = .ok .bldRdi := by rfl

theorem test_decode_bldWsr : decode (0b00000000#8 ++ 0b00100010#8) = .ok .bldWsr := by rfl

theorem test_decode_bldCus : decode (0b00000000#8 ++ 0b00100011#8) = .ok .bldCus := by rfl

theorem test_decode_parse : decode (0b00000000#8 ++ 0b00110000#8) = .ok .parse := by rfl

theorem test_decode_xfer : decode (0b00000000#8 ++ 0b01000000#8) = .ok .xfer := by rfl

/-- D-SYS-4 to D-SYS-8, D-CRC-8: reserved words. -/
theorem test_decode_reserved :
    decode 0x0050 = .error (.unknownOp 0x50) ∧ decode 0x0120 = .error (.nonzeroImm 0x20 0x01) ∧
    decode 0x0100 = .error (.nonzeroImm 0x00 0x01) ∧ decode 0xFFFF = .error (.unknownOp 0xFF) ∧
    decode 0x0110 = .error (.nonzeroImm 0x10 0x01) ∧ decode 0x0012 = .error (.unknownOp 0x12) :=
  ⟨rfl, rfl, rfl, rfl, rfl, rfl⟩

theorem test_decodeTableWord :
    decodeTableWord 16 0xE811 = some (.crcUpd 0xE8) ∧ decodeTableWord 16 0x0040 = some .xfer ∧
    decodeTableWord 16 0x0110 = none := ⟨rfl, rfl, rfl⟩

/-- D-CRC-6: CRC.UPD 0x01 as the first command after reset. -/
theorem test_withFetchWord : after (step (State.reset.withFetchWord 16 0x0111)) (fun t => t.crcr == 0x807E) = true := by
  decide +kernel

/-! ### The CRC unit -/

/-- D-CRC-1. -/
theorem test_crcBit :
    crcBit 0x0001 = 0xA001 ∧ crcBit 0x0002 = 0x0001 ∧ crcBit 0x8000 = 0x4000 ∧ crcBit 0xA001 = 0xF001 ∧
    crcBit 0xFFFE = 0x7FFF ∧ crcBit 0xFFFF = 0xDFFE := by decide

/-- D-CRC-2. -/
theorem test_crcByte :
    crcByte 0x0000 0x01 = 0xC0C1 ∧ crcByte 0x0000 0x80 = 0xA001 ∧ crcByte 0xFFFF 0xFF = 0x00FF ∧
    crcByte 0x807E 0x06 = 0x2280 ∧ crcByte 0x1234 0x56 = 0xE993 := by decide +kernel

/-- D-CRC-3, `40_crc_unit.md` R96: the check value. -/
theorem test_crc16_check :
    crc16 [0x31, 0x32, 0x33, 0x34, 0x35, 0x36, 0x37, 0x38, 0x39] = 0x4B37 := by decide +kernel

/-- D-CRC-3: the running value after 0xFF 0xFF is 0, after 0x00 0x00 it is 0xB001. -/
theorem test_crc16_ends : crc16 [0xFF, 0xFF] = 0x0000 ∧ crc16 [0x00, 0x00] = 0xB001 := by decide +kernel

/-- R93: whatever CRCR holds. -/
theorem test_crcInit : after (exec .crcInit { idle with crcr := 0x1234 }) (fun t => t.crcr == 0xFFFF) = true := by
  decide

/-- D-CRC-4: the second byte. -/
theorem test_crcUpd : after (exec (.crcUpd 0x06) { idle with crcr := 0x807E }) (fun t => t.crcr == 0x2280) = true := by
  decide +kernel

/-! ### The builder -/

/-- D-BLD-1. -/
theorem test_bldRdh :
    after (exec .bldRdh idle) (fun t => t.txlen == 8 &&
      bytesOf t .txbuf 0 8 == [0x01, 0x03, 0x01, 0x08, 0x00, 0x01, 0x04, 0x34]) = true := by decide +kernel

/-- D-BLD-2. -/
theorem test_bldRdi :
    after (exec .bldRdi idle) (fun t => t.txlen == 8 &&
      bytesOf t .txbuf 0 8 == [0x01, 0x04, 0x01, 0x08, 0x00, 0x01, 0xB1, 0xF4]) = true := by decide +kernel

/-- S1, D-BLD-8. -/
theorem test_bldWsr :
    after (exec .bldWsr { idle with addr := 0x0089, data := 0x03E8 }) (fun t => t.txlen == 8 &&
      bytesOf t .txbuf 0 8 == frameS1) = true := by decide +kernel

/-- D-BLD-14: byte order. -/
theorem test_bldWsr_order :
    after (exec .bldWsr { idle with addr := 0x1234, data := 0xABCD }) (fun t =>
      bytesOf t .txbuf 0 8 == [0x01, 0x06, 0x12, 0x34, 0xAB, 0xCD, 0x73, 0xD9]) = true := by decide +kernel

/-- D-BLD-15. -/
theorem test_bldCus :
    after (exec .bldCus idle) (fun t => t.txlen == 8 &&
      bytesOf t .txbuf 0 8 == [0x01, 0x42, 0x01, 0x02, 0x03, 0x04, 0xD8, 0xCA]) = true := by decide +kernel

/-- D-BLD-16, D-BLD-23: the shortest frame, over a longer one, whose fifth byte stays. -/
theorem test_bldCus_empty :
    after (exec .bldCus { built with plen := 0 }) (fun t => t.txlen == 4 &&
      bytesOf t .txbuf 0 5 == [0x01, 0x42, 0x80, 0x11, 0x03]) = true := by decide +kernel

/-- `30_encoding.md` R78, D-BLD-10 to D-BLD-12. -/
theorem test_to16 :
    to16 (-1000) = some 0xFC18 ∧ to16 (-1) = some 0xFFFF ∧ to16 65535 = some 0xFFFF ∧ to16 (-32768) = some 0x8000 ∧
    to16 (-32769) = none ∧ to16 65536 = none := by decide

/-! ### The parser -/

/-- D-PAR-1, D-PAR-4, D-PAR-7, D-PAR-8, D-PAR-10. -/
theorem test_parse_lengths :
    parse 0x01 0x03 [0x01, 0x03, 0x02, 0x01, 0x2C, 0xB8, 0x09] = (.payload, 0, 3) ∧
    parse 0x01 0x03 [0x01, 0x03, 0x40, 0x21] = (.payload, 0, 0) ∧
    parse 0x01 0x03 [] = (.emptyResponse, 0, 0) ∧ parse 0x01 0x03 [0x01] = (.malformed, 0, 0) ∧
    parse 0x01 0x03 [0x01, 0x03, 0x02] = (.malformed, 0, 0) := by decide +kernel

/-- D-PAR-12, D-PAR-15, D-PAR-19, D-PAR-22, D-PAR-23, D-PAR-25, D-PAR-27, D-PAR-28, D-PAR-30. -/
theorem test_parse_checks :
    parse 0x01 0x03 [0x01, 0x03, 0x02, 0x01, 0x2C, 0x09, 0xB8] = (.crcMismatch, 0, 0) ∧
    parse 0xFF 0xFF [0xFF, 0xFF, 0xFF, 0xFF] = (.crcMismatch, 0, 0) ∧
    parse 0x01 0x03 [0x02, 0x03, 0x02, 0x01, 0x2C, 0xFC, 0x08] = (.crcMismatch, 0, 0) ∧
    parse 0x01 0x03 [0x02, 0x03, 0x02, 0x01, 0x2C, 0xFC, 0x09] = (.slaveIdMismatch, 0, 0) ∧
    parse 0x01 0x03 [0x02, 0x83, 0x02, 0x30, 0xF1] = (.slaveIdMismatch, 0, 0) ∧
    parse 0x01 0x03 [0x01, 0x86, 0x03, 0x02, 0x61] = (.driverException, 0x03, 0) ∧
    parse 0x01 0x03 [0x01, 0x83, 0x41, 0x81] = (.driverException, 0x41, 0) ∧
    parse 0x01 0x03 [0x01, 0x83, 0x02, 0x99, 0x98, 0xFA, 0x7E] = (.driverException, 0x02, 0) ∧
    parse 0x01 0x04 [0x01, 0x03, 0x02, 0x01, 0x2C, 0xB8, 0x09] = (.functionCodeMismatch, 0, 0) := by decide +kernel

/-- D-PAR-24: the command, with OUTCOME as the host reads it. -/
theorem test_parse_command :
    after (exec .parse (staged 0x01 0x03 [0x01, 0x83, 0x02, 0xC0, 0xF1]))
      (fun t => outcomeWord t == 0x0206 && t.paylen == 0 && t.done) = true := by decide +kernel

/-- D-PAR-32: PARSE on a fresh engine. -/
theorem test_parse_fresh :
    after (exec .parse State.reset) (fun t => outcomeWord t == 0x0002 && statusWord t == 0x0002) = true := by
  decide +kernel

/-! ### The system commands -/

/-- D-SYS-1. -/
theorem test_nop : after (exec .nop (busyIn .send)) (fun t => t == busyIn .send) = true := by decide +kernel

/-- D-SYS-2: STATUS 0x000E becomes 0x0008. -/
theorem test_clr :
    after (exec .clr { idle with done := true, err := true, kind := .payload })
      (fun t => statusWord t == 0x0008 && t.kind == .payload) = true := by decide +kernel

/-! ### The transaction, D-XFR-1 step by step (STATUS after each step) -/

theorem test_xfer_accept : after (exec .xfer built) (fun t => statusWord t == 0x0019) = true := by decide +kernel

/-- D-XFR-12. -/
theorem test_xfer_unbuilt : after (exec .xfer State.reset) (fun t => statusWord t == 0x0004) = true := by
  decide +kernel

theorem test_flush :
    after (step (onTurn .engine { busyIn .flush with chin := [0xAA, 0xBB] }))
      (fun t => statusWord t == 0x0029 && t.chin == []) = true := by decide +kernel

theorem test_send :
    after (step (onTurn .engine (busyIn .send)))
      (fun t => statusWord t == 0x0039 && t.wire == [frameS1] && t.scnt == 100) = true := by decide +kernel

theorem test_tick : after (step (onTurn .tick waiting)) (fun t => t.scnt == 0 && statusWord t == 0x0039) = true := by
  decide +kernel

theorem test_settle : after (step (onTurn .engine (busyIn .settle))) (fun t => statusWord t == 0x0049) = true := by
  decide +kernel

theorem test_read :
    after (step (onTurn .engine { busyIn .read with chin := frameS1 }))
      (fun t => statusWord t == 0x0059 && t.rxlen == 8 && t.chin == [] && bytesOf t .rxbuf 0 8 == frameS1) = true := by
  decide +kernel

theorem test_parse_phase :
    after (step (onTurn .engine { busyIn .parse with rxbuf := Memory.storeAll [] 0 frameS1, rxlen := 8 }))
      (fun t => statusWord t == 0x000A && outcomeWord t == 0x0001 && t.paylen == 4) = true := by decide +kernel

/-- D-XFR-9: the channel is found closed at READ. -/
theorem test_read_closed :
    after (step (onTurn .engine { busyIn .read with chOpen := false }))
      (fun t => outcomeWord t == 0x0008 && statusWord t == 0x0002) = true := by decide +kernel

/-! ### The host port -/

/-- D-BLD-22. -/
theorem test_write_sid : after (step (onAccess (.writeReg 3 0x1234) idle)) (fun t => t.sid == 0x34) = true := by
  decide +kernel

/-- D-BLD-21 and D-PAR-34. -/
theorem test_write_lengths :
    after (step (onAccess (.writeReg 7 253) idle)) (fun t => t.plen == 4 && t.err) = true ∧
    after (step (onAccess (.writeReg 7 252) idle)) (fun t => t.plen == 252 && !t.err) = true ∧
    after (step (onAccess (.writeReg 11 257) idle)) (fun t => t.rxlen == 0 && t.err) = true ∧
    after (step (onAccess (.writeReg 11 256) idle)) (fun t => t.rxlen == 256 && !t.err) = true := by decide +kernel

/-- D-XFR-13: writes while busy. -/
theorem test_write_busy :
    after (step (onAccess (.writeReg 13 0) (busyIn .send))) (fun t => t.settle == 100 && t.err) = true ∧
    after (step (onAccess (.writeReg 8 5) (busyIn .send))) (fun t => t == busyIn .send) = true ∧
    after (step (onAccess (.writeReg 0 0x0050) (busyIn .send))) (fun t => t == raiseErr (busyIn .send)) = true := by
  decide +kernel

/-- D-BLD-24: a write of TXBUF is ignored. -/
theorem test_write_txbuf : after (step (onAccess (.writeBuf .txbuf 0 0x55) built)) (fun t => t == built) = true := by
  decide +kernel

/-- D-SYS-10. -/
theorem test_read_reset :
    after (step (onAccess (.readReg 13) State.reset)) (fun t => t.readData == 0x0064) = true ∧
    after (step (onAccess (.readReg 14) State.reset)) (fun t => t.readData == 0xFFFF) = true ∧
    after (step (onAccess (.readReg 1) idle)) (fun t => t.readData == 0x0008) = true := by decide +kernel

/-- D-XFR-14: reset in the middle of a transaction. -/
theorem test_reset_aborts :
    after (step (onTurn (.reset true) { busyIn .read with chin := [0xAA], wire := [frameS1] }))
      (fun t => !t.busy && !t.done && t.phase == .idle && t.txlen == 0 && t.chin == [0xAA] && t.wire == [frameS1]) =
      true := by decide +kernel

/-- `20_memory.md` R53: the ends of the suggested map's ranges, and what stands beside them. -/
theorem test_suggested_map :
    suggestedRegOffset .reserved = 0x01E ∧ suggestedByteOffset .paybuf 251 = 0x1FB ∧
    suggestedByteOffset .txbuf 255 = 0x2FF ∧ suggestedByteOffset .rxbuf 255 = 0x3FF ∧
    suggestedLocate 0x01E = some (.register 15) ∧ suggestedLocate 0x020 = none ∧
    suggestedLocate 0x1FB = some (.cell .paybuf 251) ∧ suggestedLocate 0x1FC = none ∧
    suggestedLocate 0x200 = some (.cell .txbuf 0) ∧ suggestedLocate 0x3FF = some (.cell .rxbuf 255) ∧
    suggestedLocate 0x400 = none ∧ suggestedLocate 0x001 = none := by decide +kernel

/-- `20_memory.md` R43, R53: a 16-bit write of 0x1234 to ADDR, low byte first and high byte first, and a byte transfer
at a register's offset, which the map does not name. -/
theorem test_bus :
    hostAccess (suggestedMap true) (.write16 0x00A 0x34 0x12) = some (.writeReg 5 0x1234) ∧
    hostAccess (suggestedMap false) (.write16 0x00A 0x12 0x34) = some (.writeReg 5 0x1234) ∧
    hostAccess (suggestedMap true) (.write8 0x00A 0x34) = none := by decide +kernel

/-- `00_scope.md` R2: the defaults of the configuration. -/
theorem test_params :
    Config.params.maxAdu = 256 ∧ Config.params.maxPay = 252 ∧ Config.params.rdMax = 256 ∧
    Config.params.settleDefault = 100 ∧ ({ maxAdu := 300 } : Config.Params).maxPay = 296 := by decide

/-- Log entry 10: only a state that breaks `10_state.md` R37 (d) faults. -/
theorem test_bufferRange :
    faultedAs (exec .bldCus { idle with plen := 253 }) (.bufferRange .paybuf 0 253) = true := by decide +kernel

/-! ### Witnesses: each shows a state and operands that meet the hypotheses of the statement it is named after, clause by
clause. Where a clause speaks of a next state, the witness gives one. -/

theorem witness_StepRunsTheDecodedCommand : idle.resetLine = false ∧ decode 0xFF11 = .ok (.crcUpd 0xFF) := ⟨rfl, rfl⟩

/-- The first row, CRC.UPD's with its highest immediate, and the last. -/
theorem witness_NoWordMatchesTwoRows :
    commandTable.length = 10 ∧ (commandTable[0]'(by decide)).accepts 0x0000 = true ∧
    (commandTable[3]'(by decide)).accepts 0xFF11 = true ∧ (commandTable[9]'(by decide)).accepts 0x0040 = true :=
  ⟨rfl, rfl, rfl, rfl⟩

/-- Op 0x12 beside CRC.UPD's, op 0x41 beside XFER's, and a format Z op with the least and the greatest non-zero
immediate. -/
theorem witness_ReservedWordSetsErr :
    idle.resetLine = false ∧ (∀ r ∈ commandTable, r.accepts 0x0012 = false) ∧
    (∀ r ∈ commandTable, r.accepts 0x0041 = false) ∧ (∀ r ∈ commandTable, r.accepts 0x0110 = false) ∧
    ∀ r ∈ commandTable, r.accepts 0xFF40 = false := by
  refine ⟨rfl, ?_, ?_, ?_, ?_⟩ <;> decide

theorem witness_NopChangesNothing : (busyIn .parse).busy = true ∧ Instr.xfer ≠ .nop ∧ Instr.clr ≠ .nop := by decide

/-- Both clauses of CLR, CRC.INIT, CRC.UPD, the BLD commands and PARSE: an idle and a busy state. -/
theorem witness_ClrClearsDoneAndErr : idle.busy = false ∧ (busyIn .flush).busy = true := ⟨rfl, rfl⟩

theorem witness_CrcInitSetsCrcr : idle.busy = false ∧ (busyIn .send).busy = true := ⟨rfl, rfl⟩

theorem witness_CrcUpdAbsorbsItsByte : idle.busy = false ∧ (busyIn .settle).busy = true := ⟨rfl, rfl⟩

/-- The ends of the bits of a word. -/
theorem witness_CrcIsTheShiftRegister :
    (0 < 16 ∧ 15 < 16) ∧ (crcBit 0x0001).getLsbD 15 = true ∧ (crcBit 0x8000).getLsbD 15 = false := by decide

theorem witness_CrcArithmeticLaws :
    (0x00FF : Word) ^^^ (0xFF : Byte).zeroExtend 16 = 0x0000 ^^^ (0x00 : Byte).zeroExtend 16 := by decide

/-- The shortest body; the highest bit of the CRC; the last byte of the body and its highest bit. -/
theorem witness_EverySingleBitErrorIsCrcMismatch :
    2 ≤ ([0x01, 0x03] : List Byte).length ∧ 15 < 16 ∧ 1 < ([0x01, 0x03] : List Byte).length ∧ 7 < 8 := by decide

theorem witness_Crc16ScriptReadsTheCrc : idle.resetLine = false ∧ idle.busy = false := ⟨rfl, rfl⟩

theorem witness_OtherCommandsIgnoreCrcr :
    Instr.bldWsr ≠ .crcInit ∧ (∀ b, Instr.bldWsr ≠ .crcUpd b) ∧ ∃ t, exec .bldWsr idle = .next t :=
  ⟨by decide, nofun, _, rfl⟩

theorem witness_BldRdhBuildsReadRequest : idle.busy = false ∧ (busyIn .read).busy = true := ⟨rfl, rfl⟩

theorem witness_BldRdiBuildsReadRequest : idle.busy = false ∧ (busyIn .parse).busy = true := ⟨rfl, rfl⟩

theorem witness_BldWsrBuildsWriteRequest : idle.busy = false ∧ (busyIn .flush).busy = true := ⟨rfl, rfl⟩

/-- The longest and the shortest payload. -/
theorem witness_BldCusBuildsCustomRequest :
    (({ idle with plen := 252 } : State).busy = false ∧ ({ idle with plen := 252 } : State).plen.toNat ≤ 252) ∧
    (({ idle with plen := 0 } : State).busy = false ∧ ({ idle with plen := 0 } : State).plen.toNat ≤ 252) ∧
    (busyIn .flush).busy = true := by decide

/-- All four commands; a function code with bit 7 clear. -/
theorem witness_BuiltFrameIsValidAndParses :
    (({ idle with plen := 252 } : State).busy = false ∧ ({ idle with plen := 252 } : State).plen.toNat ≤ 252) ∧
    (IsBuild .bldRdh ∧ IsBuild .bldRdi ∧ IsBuild .bldWsr ∧ IsBuild .bldCus) ∧
    (buildCode { idle with fc := 0x7F } .bldCus).getLsbD 7 = false ∧ (buildCode idle .bldWsr).getLsbD 7 = false := by
  refine ⟨by decide, ⟨.inl rfl, .inr (.inl rfl), .inr (.inr (.inl rfl)), .inr (.inr (.inr rfl))⟩, ?_, ?_⟩ <;> decide

/-- The ends of the values the third script has a conversion for. -/
theorem witness_RegisterRequestScriptsBuild :
    idle.resetLine = false ∧ idle.busy = false ∧ (scriptReqWsr 0x01 0x0004 (-32768)).isSome = true ∧
    (scriptReqWsr 0x01 0x0004 65535).isSome = true := by decide

/-- The longest payload and none. -/
theorem witness_CustomRequestScriptBuilds :
    idle.resetLine = false ∧ idle.busy = false ∧ (List.replicate 252 (0xAA : Byte)).length ≤ 252 ∧
    ([] : List Byte).length ≤ 252 :=
  ⟨rfl, rfl, Nat.le_of_eq List.length_replicate, Nat.zero_le _⟩

/-- The ends of the range and the values beside them. -/
theorem witness_To16IsTwosComplement :
    ((-32768 : Int) ≤ -32768 ∧ (-32768 : Int) ≤ 65535) ∧ ((-32768 : Int) ≤ 65535 ∧ (65535 : Int) ≤ 65535) ∧
    (-32769 : Int) < -32768 ∧ (65535 : Int) < 65536 := by decide

/-- The shortest and the longest response that is Malformed. -/
theorem witness_ParseChecksInOrder :
    (1 ≤ ([0x01] : List Byte).length ∧ ([0x01] : List Byte).length ≤ 3) ∧
    (1 ≤ ([0x01, 0x03, 0x02] : List Byte).length ∧ ([0x01, 0x03, 0x02] : List Byte).length ≤ 3) := by decide

theorem witness_EchoParsesAsPayload : (0x7F : Byte).getLsbD 7 = false ∧ (0x00 : Byte).getLsbD 7 = false := by decide

/-- The longest response RXLEN may hold, and none. -/
theorem witness_ParseRecordsTheOutcome :
    (({ idle with rxlen := 256 } : State).busy = false ∧ ({ idle with rxlen := 256 } : State).rxlen.toNat ≤ 256) ∧
    (idle.busy = false ∧ idle.rxlen.toNat ≤ 256 ∧
      parse idle.esid idle.efc (bytesOf idle .rxbuf 0 idle.rxlen.toNat) = (.emptyResponse, 0, 0)) ∧
    (busyIn .send).busy = true := by decide

/-- Busy, idle with nothing built, and idle with the shortest frame. -/
theorem witness_XferAcceptance :
    (busyIn .settle).busy = true ∧ (idle.busy = false ∧ idle.txlen = 0) ∧
    (({ built with txlen := 4 } : State).busy = false ∧ ({ built with txlen := 4 } : State).txlen ≠ 0) := by decide

theorem witness_FlushStepDiscardsChin : (busyIn .flush).resetLine = false ∧ (busyIn .flush).phase = .flush := by decide

theorem witness_SendStepWritesTheFrame :
    ({ busyIn .send with txlen := 256 } : State).resetLine = false ∧
    ({ busyIn .send with txlen := 256 } : State).phase = .send ∧
    ({ busyIn .send with txlen := 256 } : State).txlen.toNat ≤ 256 := by decide

theorem witness_SettleStepWaitsForScnt :
    (waiting.resetLine = false ∧ waiting.phase = .settle ∧ waiting.scnt ≠ 0) ∧
    (busyIn .settle).phase = .settle ∧ (busyIn .settle).scnt = 0 := by decide

theorem witness_ReadStepTakesWhatIsAvailable :
    ((busyIn .read).resetLine = false ∧ (busyIn .read).phase = .read ∧ (busyIn .read).chOpen = true) ∧
    ({ busyIn .read with chOpen := false } : State).chOpen = false := by decide

theorem witness_ParseStepCompletes :
    (busyIn .parse).resetLine = false ∧ (busyIn .parse).phase = .parse ∧ (busyIn .parse).rxlen.toNat ≤ 256 ∧
    ({ busyIn .parse with rxlen := 256 } : State).rxlen.toNat ≤ 256 ∧
    parse (busyIn .parse).esid (busyIn .parse).efc (bytesOf (busyIn .parse) .rxbuf 0 (busyIn .parse).rxlen.toNat) =
      (.emptyResponse, 0, 0) := by decide

/-- The last tick, a tick too many, and a tick in another phase. -/
theorem witness_TickLowersScnt :
    (waiting.resetLine = false ∧ waiting.phase = .settle ∧ waiting.scnt ≠ 0) ∧ (busyIn .settle).scnt = 0 ∧
    idle.phase ≠ .settle := by decide

theorem witness_RemoteAndOwnerTurns : idle.resetLine = false := rfl

/-- The longest frame. -/
theorem witness_TransactionDeliversTheParsedResponse :
    ({ built with txlen := 256 } : State).resetLine = false ∧ ({ built with txlen := 256 } : State).busy = false ∧
    ({ built with txlen := 256 } : State).txlen ≠ 0 ∧ ({ built with txlen := 256 } : State).txlen.toNat ≤ 256 ∧
    ({ built with txlen := 256 } : State).chOpen = true := by decide

/-- The states of a transaction with the frame of S1 meet the invariant where SCNT is 0 outside SETTLE. -/
theorem inv_built (p : Phase) (c : Word) (ts : List Turn) (hp : p ≠ .idle) (hc : c ≠ 0 → p = .settle) :
    Inv { built with busy := true, phase := p, scnt := c, turns := ts } := by
  have hf : ValidFrame (bytesOf built .txbuf 0 8) := by
    unfold ValidFrame
    decide +kernel
  have hw : ∀ S, Memory.wf (bufferOf built S) ∧ Memory.below (bufferOf built S) (Config.capacity S) := by
    intro S
    cases S <;> decide
  exact
    { busyIffPhase := ⟨fun _ => hp, fun _ => rfl⟩
      txlenLegal := .inr (show 4 ≤ built.txlen.toNat ∧ built.txlen.toNat ≤ 256 by decide)
      rxlenLegal := show built.rxlen.toNat ≤ 256 by decide
      plenLegal := show built.plen.toNat ≤ 252 by decide
      frameValid := fun _ => hf
      excOnlyWithException := fun h => absurd rfl h
      paylenOnlyWithPayload := fun h => absurd rfl h
      scntOnlyInSettle := hc
      buffersWf := fun | .paybuf => (hw .paybuf).1 | .txbuf => (hw .txbuf).1 | .rxbuf => (hw .rxbuf).1
      buffersBelow := fun | .paybuf => (hw .paybuf).2 | .txbuf => (hw .txbuf).2 | .rxbuf => (hw .rxbuf).2 }

theorem inv_waiting : Inv waiting := inv_built .settle 1 [] (by decide) (fun _ => rfl)

theorem inv_busyIn_flush : Inv (busyIn .flush) := inv_built .flush 0 [] (by decide) (fun h => absurd rfl h)

theorem inv_busyIn_parse : Inv (busyIn .parse) := inv_built .parse 0 [] (by decide) (fun h => absurd rfl h)

theorem inv_busyIn_settle : Inv (busyIn .settle) := inv_built .settle 0 [] (by decide) (fun h => absurd rfl h)

/-- The engine's turn, and a tick that is effective. -/
theorem witness_UsefulTurnsLowerTheBound :
    (Inv (busyIn .settle) ∧ (busyIn .settle).busy = true ∧ ¬ UnderReset (busyIn .settle) ∧
      (nextTurn (busyIn .settle)).1 = .engine ∧ engineEnabled (busyIn .settle) = true ∧
      ∃ t, step (busyIn .settle) = .next t) ∧
    (Inv waiting ∧ waiting.busy = true ∧ ¬ UnderReset waiting ∧ (nextTurn waiting).1 = .tick ∧
      waiting.phase = .settle ∧ waiting.scnt ≠ 0 ∧ ∃ t, step waiting = .next t) := by
  refine ⟨⟨inv_busyIn_settle, rfl, ?_, rfl, rfl, _, rfl⟩, ⟨inv_waiting, rfl, ?_, rfl, rfl, by decide, _, rfl⟩⟩ <;>
    · rintro (h | h) <;> cases h

theorem witness_TransactionCompletes :
    Inv (busyIn .flush) ∧ (busyIn .flush).busy = true ∧ (busyIn .flush).resetLine = false ∧
    (busyIn .flush).turns = [] := ⟨inv_busyIn_flush, rfl, rfl, rfl⟩

theorem witness_HostReadOfEachRegister : idle.resetLine = false := rfl

/-- A word that decodes, one that does not, and the limits of PLEN and RXLEN with the values above them. -/
theorem witness_RegisterWriteWhileIdle :
    (idle.resetLine = false ∧ idle.busy = false) ∧ decode 0x0001 = .ok .clr ∧
    decode 0x0002 = .error (.unknownOp 0x02) ∧ (252 : Word).toNat ≤ 252 ∧ ¬ (253 : Word).toNat ≤ 252 ∧
    (256 : Word).toNat ≤ 256 ∧ ¬ (257 : Word).toNat ≤ 256 := by
  refine ⟨⟨rfl, rfl⟩, rfl, rfl, ?_, ?_, ?_, ?_⟩ <;> decide

theorem witness_RegisterWriteWhileBusy :
    (busyIn .read).resetLine = false ∧ (busyIn .read).busy = true ∧ 3 ∈ [3, 4, 5, 6, 7, 9, 10, 11, 13] ∧
    13 ∈ [3, 4, 5, 6, 7, 9, 10, 11, 13] ∧ 1 ∈ [1, 2, 8, 12, 14, 15] ∧ 15 ∈ [1, 2, 8, 12, 14, 15] := by decide

/-- The last index of each buffer, busy and idle. -/
theorem witness_BufferWrite :
    idle.resetLine = false ∧ idle.busy = false ∧ (busyIn .read).resetLine = false ∧ (busyIn .read).busy = true ∧
    251 < 252 ∧ 255 < 256 := by decide

/-- A written byte below the length register, the last byte below it where nothing was written, the first at it, and
the last of the buffer. -/
theorem witness_BufferRead :
    (built.resetLine = false ∧ 7 < Config.capacity .txbuf ∧ 7 < (lengthRegister built .txbuf).toNat ∧
      Memory.byteAt (bufferOf built .txbuf) 7 = some 0x9E) ∧
    (255 < Config.capacity .rxbuf ∧ 255 < (lengthRegister { built with rxlen := 256 } .rxbuf).toNat ∧
      Memory.byteAt (bufferOf { built with rxlen := 256 } .rxbuf) 255 = none) ∧
    (8 < Config.capacity .txbuf ∧ (lengthRegister built .txbuf).toNat ≤ 8) ∧
    (251 < Config.capacity .paybuf ∧ (lengthRegister built .paybuf).toNat ≤ 251) := by decide

/-- The first register number and the first index of each buffer that name nothing. -/
theorem witness_NoSuchLocationIsRefused :
    idle.resetLine = false ∧ 15 < 16 ∧ Config.capacity .paybuf ≤ 252 ∧ Config.capacity .txbuf ≤ 256 ∧
    Config.capacity .rxbuf ≤ 256 := by decide

theorem witness_WaitPollsStatus : (busyIn .send).resetLine = false ∧ idle.resetLine = false := ⟨rfl, rfl⟩

theorem witness_ResetGivesTheResetValues : ({ idle with resetLine := true } : State).resetLine = true := rfl

theorem witness_HeldResetLeavesNoTrace :
    (onAccess (.writeReg 5 0x1234) { idle with resetLine := true }).resetLine = true ∧
    ∃ t, step (onAccess (.writeReg 5 0x1234) { idle with resetLine := true }) = .next t := ⟨rfl, _, rfl⟩

/-- A host's turn and an engine's turn. -/
theorem witness_EveryStepKeepsTheInvariant :
    (Inv (busyIn .flush) ∧ ∃ t, step (busyIn .flush) = .next t) ∧
    (Inv (onTurn .host waiting) ∧ ∃ t, step (onTurn .host waiting) = .next t) :=
  ⟨⟨inv_busyIn_flush, _, rfl⟩, ⟨inv_built .settle 1 [.host] (by decide) (fun _ => rfl), _, rfl⟩⟩

/-- An access to register 16 in a state that meets the invariant. -/
theorem witness_InvariantStatesNeverStop :
    Inv (onAccess (.readReg 16) waiting) ∧
    step (onAccess (.readReg 16) waiting) = .refused (.noSuchRegister 16) :=
  ⟨⟨inv_waiting.1, inv_waiting.2, inv_waiting.3, inv_waiting.4, inv_waiting.5, inv_waiting.6, inv_waiting.7,
    inv_waiting.8, inv_waiting.9, inv_waiting.10⟩, rfl⟩

theorem witness_PhaseMovesInOrder :
    Inv (busyIn .flush) ∧ ¬ UnderReset (busyIn .flush) ∧ ∃ t, step (busyIn .flush) = .next t ∧ t.phase = .send :=
  ⟨inv_busyIn_flush, (by rintro (h | h) <;> cases h), _, rfl, rfl⟩

/-- BUSY is set and BUSY is cleared. -/
theorem witness_BusySpansOneTransaction :
    (Inv (onAccess (.writeReg 0 0x0040) built) ∧ (onAccess (.writeReg 0 0x0040) built).busy = false ∧
      ∃ t, step (onAccess (.writeReg 0 0x0040) built) = .next t ∧ t.busy = true) ∧
    (Inv (busyIn .parse) ∧ (busyIn .parse).busy = true ∧ ∃ t, step (busyIn .parse) = .next t ∧ t.busy = false) := by
  refine ⟨⟨?_, rfl, _, rfl, rfl⟩, ⟨inv_busyIn_parse, rfl, _, rfl, rfl⟩⟩
  have h := inv_busyIn_flush
  exact ⟨⟨nofun, fun hp => absurd rfl hp⟩, h.2, h.3, h.4, h.5, h.6, h.7, fun hc => absurd rfl hc, h.9, h.10⟩

/-- ERR is cleared, ERR is set while idle, and ERR is set while busy. -/
theorem witness_ErrIsSetByHostMistakesOnly :
    (∃ t, step (onAccess (.writeReg 0 0x0001) { idle with err := true }) = .next t ∧ t.err = false) ∧
    (∃ t, step (onAccess (.writeReg 7 253) idle) = .next t ∧ t.err = true) ∧
    ∃ t, step (onAccess (.writeBuf .paybuf 251 0x00) waiting) = .next t ∧ t.err = true :=
  ⟨⟨_, rfl, rfl⟩, ⟨_, rfl, rfl⟩, ⟨_, rfl, rfl⟩⟩

/-- DONE is set by PARSE, by the PARSE step, and by a FLUSH step that finds the channel closed; DONE is cleared by CLR,
by XFER, and by reset. -/
theorem witness_DoneMarksACompletion :
    (∃ t, step (onAccess (.writeReg 0 0x0030) idle) = .next t ∧ t.done = true) ∧
    (∃ t, step (busyIn .parse) = .next t ∧ t.done = true) ∧
    (∃ t, step { busyIn .flush with chOpen := false } = .next t ∧ t.done = true) ∧
    (∃ t, step (onAccess (.writeReg 0 0x0001) { built with done := true }) = .next t ∧ t.done = false) ∧
    (∃ t, step (onAccess (.writeReg 0 0x0040) { built with done := true }) = .next t ∧ t.done = false) ∧
    ∃ t, step (onTurn (.reset true) { built with done := true }) = .next t ∧ t.done = false :=
  ⟨⟨_, rfl, rfl⟩, ⟨_, rfl, rfl⟩, ⟨_, rfl, rfl⟩, ⟨_, rfl, rfl⟩, ⟨_, rfl, rfl⟩, ⟨_, rfl, rfl⟩⟩

theorem witness_CrcrIsWrittenByTheCrcUnitOnly :
    ∃ t, step (onAccess (.writeReg 0 0x0010) { idle with crcr := 0 }) = .next t ∧
      t.crcr ≠ ({ idle with crcr := 0 } : State).crcr := ⟨_, rfl, by decide⟩

theorem witness_TxbufIsWrittenByTheBuilderOnly :
    ∃ t, step (onAccess (.writeReg 0 0x0020) idle) = .next t ∧ t.txlen ≠ idle.txlen := ⟨_, rfl, by decide⟩

/-- The first and the last of the registers, and PAYBUF. -/
theorem witness_OperandRegistersAreWrittenByTheHostOnly :
    (¬ UnderReset (onAccess (.writeReg 3 0x00F7) idle) ∧
      ∃ t, step (onAccess (.writeReg 3 0x00F7) idle) = .next t ∧ t.sid ≠ idle.sid) ∧
    (¬ UnderReset (onAccess (.writeReg 13 0) idle) ∧
      ∃ t, step (onAccess (.writeReg 13 0) idle) = .next t ∧ t.settle ≠ idle.settle) ∧
    (¬ UnderReset (onAccess (.writeBuf .paybuf 251 0x00) idle) ∧
      ∃ t, step (onAccess (.writeBuf .paybuf 251 0x00) idle) = .next t ∧ t.paybuf ≠ idle.paybuf) := by
  refine ⟨⟨?_, _, rfl, by decide⟩, ⟨?_, _, rfl, by decide⟩, ⟨?_, _, rfl, by decide⟩⟩ <;>
    · rintro (h | h) <;> cases h

/-- RXLEN by the host, by XFER and by READ, RXBUF by READ, OUTCOME by PARSE, by XFER and by a step that completes, SCNT
by SEND and by a tick. -/
theorem witness_ResultRegistersHaveTheseWriters :
    (¬ UnderReset (onAccess (.writeReg 11 256) idle) ∧
      ∃ t, step (onAccess (.writeReg 11 256) idle) = .next t ∧ t.rxlen ≠ idle.rxlen) ∧
    (¬ UnderReset (onAccess (.writeReg 0 0x0040) { built with rxlen := 5, kind := .payload }) ∧
      ∃ t, step (onAccess (.writeReg 0 0x0040) { built with rxlen := 5, kind := .payload }) = .next t ∧
        t.rxlen ≠ 5 ∧ t.kind ≠ .payload) ∧
    (¬ UnderReset { busyIn .read with chin := [0x01] } ∧
      ∃ t, step { busyIn .read with chin := [0x01] } = .next t ∧ t.rxlen ≠ (busyIn .read).rxlen ∧
        t.rxbuf ≠ (busyIn .read).rxbuf) ∧
    (¬ UnderReset (onAccess (.writeReg 0 0x0030) idle) ∧
      ∃ t, step (onAccess (.writeReg 0 0x0030) idle) = .next t ∧ t.kind ≠ idle.kind) ∧
    (¬ UnderReset { busyIn .read with chOpen := false } ∧
      ∃ t, step { busyIn .read with chOpen := false } = .next t ∧ t.kind ≠ (busyIn .read).kind) ∧
    (¬ UnderReset (busyIn .send) ∧ ∃ t, step (busyIn .send) = .next t ∧ t.scnt ≠ (busyIn .send).scnt) ∧
    (¬ UnderReset waiting ∧ ∃ t, step waiting = .next t ∧ t.scnt ≠ waiting.scnt) := by
  refine ⟨⟨?_, _, rfl, by decide⟩, ⟨?_, _, rfl, by decide⟩, ⟨?_, _, rfl, by decide⟩, ⟨?_, _, rfl, by decide⟩,
    ⟨?_, _, rfl, by decide⟩, ⟨?_, _, rfl, by decide⟩, ⟨?_, _, rfl, by decide⟩⟩ <;>
    · rintro (h | h) <;> cases h

theorem witness_RunningTransactionKeepsItsOperands :
    ({ waiting with err := true } : State).busy = true ∧ ¬ UnderReset { waiting with err := true } ∧
    ({ waiting with err := true } : State).err = true ∧ ∃ t, step { waiting with err := true } = .next t :=
  ⟨rfl, (by rintro (h | h) <;> cases h), rfl, _, rfl⟩

/-- WIRE grows, CHIN is emptied, CHIN is read, CHIN grows, the channel is closed. -/
theorem witness_ChannelIsUsedByThePhaseStepsOnly :
    (∃ t, step (busyIn .send) = .next t ∧ t.wire ≠ (busyIn .send).wire) ∧
    (∃ t, step { busyIn .flush with chin := [0xAA] } = .next t ∧ t.chin ≠ [0xAA]) ∧
    (∃ t, step { busyIn .read with chin := [0xAA] } = .next t ∧ t.chin ≠ [0xAA]) ∧
    (∃ t, step (onTurn (.remote [0xAA]) idle) = .next t ∧ t.chin ≠ idle.chin) ∧
    ∃ t, step (onTurn (.owner false) idle) = .next t ∧ t.chOpen ≠ idle.chOpen :=
  ⟨⟨_, rfl, by decide⟩, ⟨_, rfl, by decide⟩, ⟨_, rfl, by decide⟩, ⟨_, rfl, by decide⟩, ⟨_, rfl, by decide⟩⟩

theorem witness_ClosedChannelIsUntouched :
    ({ busyIn .send with chOpen := false } : State).chOpen = false ∧
    ∃ t, step { busyIn .send with chOpen := false } = .next t := ⟨rfl, _, rfl⟩

end Sys2Proof.Tests
end

section
/-! What one step of the machine can do, said once (`StepEffect`), and what follows for the state (`10_state.md`): the
invariant and its preservation, where no step stops, and who writes each register and flag. -/

namespace Sys2Proof.Machine

/-! ### Command words -/

/-- A word whose low byte is that of CRC.UPD is CRC.UPD of its high byte (`40_crc_unit.md` R94). -/
theorem encode_crcUpd_immField {w : Word} (h : w &&& 0x00FF = 0x0011) : encode (.crcUpd (immField w)) = w := by
  have hlo : loByte w = 0x11 := by
    have hmask : loByte w = loByte (w &&& 0x00FF) := by
      ext i hi
      interval_cases i <;> simp [loByte]
    rw [hmask, h]
    rfl
  calc encode (.crcUpd (immField w)) = wordOf (loByte w) (hiByte w) := by
        rw [wordOf, hlo, BitVec.or_comm]
        rfl
    _ = w := wordOf_lo_hi w

/-- A word decodes to no command but the one it encodes (`30_encoding.md` R67). -/
theorem encode_of_decode {w : Word} {i : Instr} (h : decode w = .ok i) : encode i = w := by
  unfold decode at h
  split at h
  · rename_i r hr
    have hi : r.build (immField w) = i := Except.ok.inj h
    have hacc : w &&& r.mask = r.pattern := by simpa [Row.accepts] using List.find?_some hr
    have hmem : r ∈ commandTable := List.mem_of_find?_eq_some hr
    have hfull : w &&& 0xFFFF = w := BitVec.and_allOnes
    subst hi
    simp only [commandTable, List.mem_cons, List.not_mem_nil, or_false] at hmem
    rcases hmem with rfl | rfl | rfl | rfl | rfl | rfl | rfl | rfl | rfl | rfl
    case inr.inr.inr.inl => exact encode_crcUpd_immField hacc
    all_goals exact (hfull.symm.trans hacc).symm
  · cases h

/-! ### What a step does

`StepEffect s t` lists, rule by rule, what one step of one agent does while the reset input is released. Every
constructor writes its next state out as a record update, so that a field it does not name is unchanged by `rfl`. -/

/-- `s` with its next turn used and `p` as the accesses the host has left: all that a step does to the model's own
lists. -/
def turnTaken (s : State) (p : List HostOp) : State := { s with turns := (nextTurn s).2.turns, prog := p }

theorem nextTurn_snd (s : State) : (nextTurn s).2 = turnTaken s s.prog := by
  obtain ⟨ts, hts⟩ := nextTurn_state s
  rw [turnTaken, hts]

/-- The events of the table of `44_system.md` (R142, R143) that set ERR, with the host's writes that R46, R47 and R49 of
`20_memory.md` answer by ERR. -/
def HostMistake (s : State) : Prop :=
  (s.busy = false ∧
    ((∃ w e, NextIsCommand s w ∧ decode w = .error e) ∨ (NextIsCommand s 0x0040 ∧ s.txlen = 0) ∨
      (∃ v : Word, NextIsAccess s (.writeReg 7 v) ∧ 252 < v.toNat) ∨
      ∃ v : Word, NextIsAccess s (.writeReg 11 v) ∧ 256 < v.toNat)) ∨
  (s.busy = true ∧
    ((∃ w, NextIsCommand s w ∧ w ≠ 0x0000) ∨
      (∃ n ∈ [3, 4, 5, 6, 7, 9, 10, 11, 13], ∃ v, NextIsAccess s (.writeReg n v)) ∨
      ∃ S i b, (S = .paybuf ∨ S = .rxbuf) ∧ NextIsAccess s (.writeBuf S i b)))

/-- What one step does that is not under reset. -/
inductive StepEffect (s : State) : State → Prop
  /-- Nothing, or a read: the model's own fields alone. -/
  | passed (p : List HostOp) (v : Word) (d : Nat) : StepEffect s { turnTaken s p with readData := v, draws := d }
  /-- `60_exceptions.md` R167. -/
  | appended (bytes : List Byte) (hturn : (nextTurn s).1 = .remote bytes) (hopen : s.chOpen = true) :
      StepEffect s { turnTaken s s.prog with chin := s.chin ++ bytes }
  /-- `60_exceptions.md` R163. -/
  | levelSet (level : Bool) (hturn : (nextTurn s).1 = .owner level) :
      StepEffect s { turnTaken s s.prog with chOpen := level }
  /-- `60_exceptions.md` R161. -/
  | ticked (hturn : (nextTurn s).1 = .tick) (hphase : s.phase = .settle) (hscnt : s.scnt ≠ 0) :
      StepEffect s { turnTaken s s.prog with scnt := s.scnt - 1 }
  /-- `10_state.md` R18. -/
  | erred (p : List HostOp) (hmistake : HostMistake s) : StepEffect s (raiseErr (turnTaken s p))
  /-- `44_system.md` R141. -/
  | cleared (p : List HostOp) (hcmd : NextIsCommand s 0x0001) (hidle : s.busy = false) :
      StepEffect s (acknowledge (turnTaken s p))
  /-- `40_crc_unit.md` R93. -/
  | crcInited (p : List HostOp) (hcmd : NextIsCommand s 0x0010) (hidle : s.busy = false) :
      StepEffect s { turnTaken s p with crcr := 0xFFFF }
  /-- `40_crc_unit.md` R94. -/
  | crcUpdated (p : List HostOp) (b : Byte) (hcmd : NextIsCommand s (encode (.crcUpd b))) (hidle : s.busy = false) :
      StepEffect s { turnTaken s p with crcr := crcByte s.crcr b }
  /-- `41_frame_build.md` R100 to R104. -/
  | built (p : List HostOp) (i : Instr) (hbuild : IsBuild i) (hcmd : NextIsCommand s (encode i))
      (hidle : s.busy = false) (hfits : (buildBody s i).length ≤ 254) :
      StepEffect s { turnTaken s p with
        txbuf := Memory.storeAll s.txbuf 0 (frameOf (buildBody s i))
        txlen := BitVec.ofNat 16 (frameOf (buildBody s i)).length }
  /-- `42_frame_parse.md` R111. -/
  | parsed (p : List HostOp) (hcmd : NextIsCommand s 0x0030) (hidle : s.busy = false) :
      StepEffect s (recordOutcome (parse s.esid s.efc (bytesOf s .rxbuf 0 s.rxlen.toNat)) (turnTaken s p))
  /-- `43_transaction.md` R121. -/
  | accepted (p : List HostOp) (hcmd : NextIsCommand s 0x0040) (hidle : s.busy = false) (hframe : s.txlen ≠ 0) :
      StepEffect s (acceptXfer (turnTaken s p))
  /-- `20_memory.md` R45, and so for the next eight. -/
  | sidWritten (p : List HostOp) (v : Word) (hacc : NextIsAccess s (.writeReg 3 v)) (hidle : s.busy = false) :
      StepEffect s { turnTaken s p with sid := loByte v }
  | fcWritten (p : List HostOp) (v : Word) (hacc : NextIsAccess s (.writeReg 4 v)) (hidle : s.busy = false) :
      StepEffect s { turnTaken s p with fc := loByte v }
  | addrWritten (p : List HostOp) (v : Word) (hacc : NextIsAccess s (.writeReg 5 v)) (hidle : s.busy = false) :
      StepEffect s { turnTaken s p with addr := v }
  | dataWritten (p : List HostOp) (v : Word) (hacc : NextIsAccess s (.writeReg 6 v)) (hidle : s.busy = false) :
      StepEffect s { turnTaken s p with data := v }
  | plenWritten (p : List HostOp) (v : Word) (hacc : NextIsAccess s (.writeReg 7 v)) (hidle : s.busy = false)
      (hlimit : v.toNat ≤ Config.maxPay) : StepEffect s { turnTaken s p with plen := v }
  | esidWritten (p : List HostOp) (v : Word) (hacc : NextIsAccess s (.writeReg 9 v)) (hidle : s.busy = false) :
      StepEffect s { turnTaken s p with esid := loByte v }
  | efcWritten (p : List HostOp) (v : Word) (hacc : NextIsAccess s (.writeReg 10 v)) (hidle : s.busy = false) :
      StepEffect s { turnTaken s p with efc := loByte v }
  | rxlenWritten (p : List HostOp) (v : Word) (hacc : NextIsAccess s (.writeReg 11 v)) (hidle : s.busy = false)
      (hlimit : v.toNat ≤ Config.maxAdu) : StepEffect s { turnTaken s p with rxlen := v }
  | settleWritten (p : List HostOp) (v : Word) (hacc : NextIsAccess s (.writeReg 13 v)) (hidle : s.busy = false) :
      StepEffect s { turnTaken s p with settle := v }
  /-- `20_memory.md` R49, and so for RXBUF. -/
  | paybufWritten (p : List HostOp) (i : Nat) (b : Byte) (hacc : NextIsAccess s (.writeBuf .paybuf i b))
      (hidle : s.busy = false) (hi : i < Config.capacity .paybuf) :
      StepEffect s { turnTaken s p with paybuf := Memory.store s.paybuf i b }
  | rxbufWritten (p : List HostOp) (i : Nat) (b : Byte) (hacc : NextIsAccess s (.writeBuf .rxbuf i b))
      (hidle : s.busy = false) (hi : i < Config.capacity .rxbuf) :
      StepEffect s { turnTaken s p with rxbuf := Memory.store s.rxbuf i b }
  /-- `60_exceptions.md` R158. -/
  | foundClosed (hturn : (nextTurn s).1 = .engine) (hphase : s.phase = .flush ∨ s.phase = .send ∨ s.phase = .read)
      (hclosed : s.chOpen = false) : StepEffect s (finish .channelNotOpen 0 0 (turnTaken s s.prog))
  /-- `43_transaction.md` R122. -/
  | flushed (hturn : (nextTurn s).1 = .engine) (hphase : s.phase = .flush) (hopen : s.chOpen = true) :
      StepEffect s { turnTaken s s.prog with chin := [], phase := .send }
  /-- `43_transaction.md` R123. -/
  | sent (hturn : (nextTurn s).1 = .engine) (hphase : s.phase = .send) (hopen : s.chOpen = true) :
      StepEffect s { turnTaken s s.prog with
        wire := s.wire ++ [bytesOf s .txbuf 0 s.txlen.toNat], scnt := s.settle, phase := .settle }
  /-- `43_transaction.md` R124. -/
  | settled (hturn : (nextTurn s).1 = .engine) (hphase : s.phase = .settle) (hscnt : s.scnt = 0) :
      StepEffect s { turnTaken s s.prog with phase := .read }
  /-- `43_transaction.md` R125. -/
  | received (hturn : (nextTurn s).1 = .engine) (hphase : s.phase = .read) (hopen : s.chOpen = true) :
      StepEffect s { turnTaken s s.prog with
        chin := s.chin.drop 256
        rxbuf := Memory.storeAll s.rxbuf 0 (s.chin.take 256)
        rxlen := BitVec.ofNat 16 (s.chin.take 256).length
        phase := .parse }
  /-- `43_transaction.md` R126, R127. -/
  | completed (hturn : (nextTurn s).1 = .engine) (hphase : s.phase = .parse) (r : Kind × Byte × Nat)
      (hr : r = parse s.esid s.efc (bytesOf s .rxbuf 0 s.rxlen.toNat)) :
      StepEffect s (finish r.1 r.2.1 (BitVec.ofNat 16 r.2.2) (turnTaken s s.prog))

section Host

variable {s t : State} {p : List HostOp}

/-- NOP is the command of no other word than 0x0000 (`30_encoding.md` R67). -/
theorem ne_zero_of_decode_ne_nop {w : Word} (h : decode w ≠ .ok .nop) : w ≠ 0x0000 := by
  rintro rfl
  exact h rfl

/-- What a decoded command does, run at the host's turn. -/
theorem exec_effect {w : Word} {i : Instr} (hcmd : NextIsCommand s w) (hdec : decode w = .ok i)
    (h : exec i (turnTaken s p) = .next t) : StepEffect s t := by
  obtain rfl : encode i = w := encode_of_decode hdec
  rcases exec_cases h with ⟨-, rfl⟩ | ⟨hi, hbusy, rfl⟩ | ⟨hidle, hown⟩
  · exact .passed p s.readData s.draws
  · have hw : encode i ≠ 0x0000 := ne_zero_of_decode_ne_nop (by rw [hdec]; simpa using hi)
    exact .erred p (.inr ⟨hbusy, .inl ⟨_, hcmd, hw⟩⟩)
  · rcases hown with ⟨rfl, rfl⟩ | ⟨rfl, rfl⟩ | ⟨b, rfl, rfl⟩ | ⟨hbuild, hfits, -, rfl⟩ | ⟨rfl, -, rfl⟩ |
      ⟨rfl, hnone, rfl⟩ | ⟨rfl, hframe, rfl⟩
    · exact .cleared p hcmd hidle
    · exact .crcInited p hcmd hidle
    · exact .crcUpdated p b hcmd hidle
    · exact .built p i hbuild hcmd hidle hfits
    · exact .parsed p hcmd hidle
    · exact .erred p (.inl ⟨hidle, .inr (.inl ⟨hcmd, hnone⟩)⟩)
    · exact .accepted p hcmd hidle hframe

/-- What a write of CMD does at the host's turn. -/
theorem command_effect {w : Word} (hcmd : NextIsCommand s w) (h : command w (turnTaken s p) = .next t) :
    StepEffect s t := by
  rcases command_cases h with ⟨i, hdec, hexec⟩ | ⟨e, hdec, rfl⟩
  · exact exec_effect hcmd hdec hexec
  · have hw : w ≠ 0x0000 := ne_zero_of_decode_ne_nop (by simp [hdec])
    cases hb : s.busy with
    | true => exact .erred p (.inr ⟨hb, .inl ⟨w, hcmd, hw⟩⟩)
    | false => exact .erred p (.inl ⟨hb, .inl ⟨w, e, hcmd, hdec⟩⟩)

/-- What a write of another register does at the host's turn while idle. -/
theorem writeIdle_effect {r : RegName} {v : Word} (hacc : NextIsAccess s (.writeReg (regNumber r) v))
    (hidle : s.busy = false) : StepEffect s (writeIdle r v (turnTaken s p)) := by
  rcases writeIdle_cases r v (turnTaken s p) with h | ⟨rfl, h⟩ | ⟨rfl, h⟩ | ⟨rfl, h⟩ | ⟨rfl, h⟩ | ⟨rfl, hv, h⟩ |
    ⟨rfl, hv, h⟩ | ⟨rfl, h⟩ | ⟨rfl, h⟩ | ⟨rfl, hv, h⟩ | ⟨rfl, hv, h⟩ | ⟨rfl, h⟩ <;> rw [h]
  · exact .passed p s.readData s.draws
  · exact .sidWritten p v hacc hidle
  · exact .fcWritten p v hacc hidle
  · exact .addrWritten p v hacc hidle
  · exact .dataWritten p v hacc hidle
  · exact .plenWritten p v hacc hidle hv
  · exact .erred p (.inl ⟨hidle, .inr (.inr (.inl ⟨v, hacc, hv⟩))⟩)
  · exact .esidWritten p v hacc hidle
  · exact .efcWritten p v hacc hidle
  · exact .rxlenWritten p v hacc hidle hv
  · exact .erred p (.inl ⟨hidle, .inr (.inr (.inr ⟨v, hacc, hv⟩))⟩)
  · exact .settleWritten p v hacc hidle

/-- The numbers of the host-writable registers (`20_memory.md` R46). -/
theorem regNumber_mem_of_hostWritable {r : RegName} (h : hostWritable r = true) :
    regNumber r ∈ [3, 4, 5, 6, 7, 9, 10, 11, 13] := by
  revert h
  cases r <;> decide

/-- What a write of another register does at the host's turn while busy. -/
theorem writeBusy_effect {r : RegName} {v : Word} (hacc : NextIsAccess s (.writeReg (regNumber r) v))
    (hbusy : s.busy = true) : StepEffect s (writeBusy r (turnTaken s p)) := by
  unfold writeBusy
  split
  case isTrue hw =>
    exact .erred p (.inr ⟨hbusy, .inr (.inl ⟨_, regNumber_mem_of_hostWritable hw, v, hacc⟩)⟩)
  case isFalse => exact .passed p s.readData s.draws

/-- What the host's access does at its turn. -/
theorem access_effect {a : HostOp} (hacc : NextIsAccess s a) (h : access a (turnTaken s p) = .next t) :
    StepEffect s t := by
  rcases access_cases h with ⟨v, d, rfl⟩ | ⟨v, -, -, rfl⟩ | ⟨w, rfl, hw⟩ |
    ⟨r, v, -, rfl, ⟨hb, rfl⟩ | ⟨hb, rfl⟩⟩ | ⟨i, b, rfl, rfl⟩ | ⟨S, i, b, hS, rfl, hi, ⟨hb, rfl⟩ | ⟨hb, rfl⟩⟩
  · exact .passed p v d
  · exact .passed (.wait :: p) v s.draws
  · exact command_effect hacc hw
  · exact writeBusy_effect hacc hb
  · exact writeIdle_effect hacc hb
  · exact .passed p s.readData s.draws
  · exact .erred p (.inr ⟨hb, .inr (.inr ⟨S, i, b, hS, hacc⟩)⟩)
  · rcases hS with rfl | rfl
    · exact .paybufWritten p i b hacc hb hi
    · exact .rxbufWritten p i b hacc hb hi

end Host

/-- What the engine's turn does. -/
theorem engineTurn_effect {s t : State} (hturn : (nextTurn s).1 = .engine)
    (h : engineTurn (turnTaken s s.prog) = .next t) : StepEffect s t := by
  rcases engineTurn_cases h with ⟨-, rfl⟩ | ⟨hp, hc, rfl⟩ | ⟨hp, hc, rfl⟩ | ⟨hp, hc, -, rfl⟩ | ⟨hp, hc, rfl⟩ |
    ⟨-, -, rfl⟩ | ⟨hp, hc, rfl⟩ | ⟨hp, -, r, hr, rfl⟩
  · exact .passed s.prog s.readData s.draws
  · exact .foundClosed hturn hp hc
  · exact .flushed hturn hp hc
  · exact .sent hturn hp hc
  · exact .settled hturn hp hc
  · exact .passed s.prog s.readData s.draws
  · exact .received hturn hp hc
  · exact .completed hturn hp r hr

/-- A step that is not under reset has one of the listed effects. -/
theorem step_effect {s t : State} (h : step s = .next t) (hreset : ¬ UnderReset s) : StepEffect s t := by
  obtain ⟨hline, hturn⟩ := not_or.1 hreset
  obtain ⟨u, hu, ⟨-, rfl⟩ | ⟨hl, -⟩⟩ := step_next h
  case inr => exact absurd hl hline
  rw [nextTurn_snd] at hu
  rcases takeTurn_cases hu with ⟨-, -, rfl⟩ | ⟨hx, a, rest, hprog, hacc⟩ | ⟨hx, heng⟩ | ⟨hx, rfl⟩ |
    ⟨bytes, hx, rfl⟩ | ⟨level, hx, rfl⟩ | ⟨asserted, hx, rfl⟩
  · exact .passed s.prog s.readData s.draws
  · exact access_effect ⟨hx, rest, hprog⟩ hacc
  · exact engineTurn_effect hx heng
  · unfold tickTurn
    split
    case isTrue hc => exact .ticked hx hc.1 hc.2
    case isFalse => exact .passed s.prog s.readData s.draws
  · unfold remoteTurn
    split
    case isTrue hopen => exact .appended bytes hx hopen
    case isFalse => exact .passed s.prog s.readData s.draws
  · exact .levelSet level hx
  · have hreleased : asserted = false := by
      cases asserted with
      | true => exact absurd hx hturn
      | false => rfl
    have hpass : resetTurn asserted (turnTaken s s.prog) = turnTaken s s.prog :=
      if_neg (by rw [hreleased]; exact hline)
    rw [hpass]
    exact .passed s.prog s.readData s.draws

/-- A step under reset leaves every piece of engine state at its reset value (`70_reset_and_hazards.md` R175). -/
theorem step_underReset {s t : State} (h : step s = .next t) (hreset : UnderReset s) : ∃ u, t = resetEngine u := by
  obtain ⟨u, hu, ⟨hl, rfl⟩ | ⟨-, ht⟩⟩ := step_next h
  · have hturn : (nextTurn s).1 = .reset true := hreset.resolve_left (by simp [hl])
    rw [hturn] at hu
    cases hu
    exact ⟨{ (nextTurn s).2 with resetLine := true, resets := (nextTurn s).2.resets + 1 }, rfl⟩
  · exact ⟨u, ht⟩

/-- What a step does: it is under reset and ends in a reset engine, or it has one of the listed effects. -/
theorem step_cases {s t : State} (h : step s = .next t) :
    (UnderReset s ∧ ∃ u, t = resetEngine u) ∨ (¬ UnderReset s ∧ StepEffect s t) := by
  by_cases hreset : UnderReset s
  · exact .inl ⟨hreset, step_underReset h hreset⟩
  · exact .inr ⟨hreset, step_effect h hreset⟩

/-! ### The invariant -/

/-- `10_state.md` R36 meets R37, whatever the environment holds. -/
theorem inv_resetEngine (s : State) : Inv (resetEngine s) where
  busyIffPhase := by simp
  txlenLegal := .inl rfl
  rxlenLegal := Nat.zero_le _
  plenLegal := Nat.zero_le _
  frameValid h := absurd rfl h
  excOnlyWithException h := absurd rfl h
  paylenOnlyWithPayload h := absurd rfl h
  scntOnlyInSettle h := absurd rfl h
  buffersWf S := by cases S <;> exact List.Pairwise.nil
  buffersBelow S := by cases S <;> exact fun _ hx => absurd hx List.not_mem_nil

/-- A body of two bytes or more with its CRC behind it is a valid frame (`41_frame_build.md` R105). -/
theorem validFrame_frameOf {body : List Byte} (h : 2 ≤ body.length) : ValidFrame (frameOf body) := by
  have htake : (frameOf body).take body.length = body := by simp [frameOf]
  have hlo : (frameOf body).getD body.length 0 = loByte (crc16 body) := by simp [frameOf, littleEndian]
  have hhi : (frameOf body).getD (body.length + 1) 0 = hiByte (crc16 body) := by simp [frameOf, littleEndian]
  unfold ValidFrame
  rw [frameOf_length, show body.length + 2 - 2 = body.length by omega,
    show body.length + 2 - 1 = body.length + 1 by omega, hlo, hhi, htake]
  exact ⟨by omega, wordOf_lo_hi _⟩

/-- A request has a slave id and a function code at least (`30_encoding.md` R71, R72). -/
theorem two_le_buildBody {s : State} {i : Instr} (h : IsBuild i) : 2 ≤ (buildBody s i).length := by
  rcases h with rfl | rfl | rfl | rfl <;> simp [buildBody]

theorem toNat_ofNat_length {bs : List Byte} (h : bs.length ≤ 256) : (BitVec.ofNat 16 bs.length).toNat = bs.length := by
  rw [BitVec.toNat_ofNat]
  omega

theorem ne_zero_of_ofNat_ne_zero {n : Nat} (h : BitVec.ofNat 16 n ≠ 0) : n ≠ 0 := by
  rintro rfl
  exact h rfl

namespace Inv

variable {s : State} (h : Inv s)
include h

theorem phase_idle (hidle : s.busy = false) : s.phase = .idle := by
  by_contra hp
  simp [h.busyIffPhase.2 hp] at hidle

theorem busy_of_phase (hp : s.phase ≠ .idle) : s.busy = true := h.busyIffPhase.2 hp

/-- SCNT is 0 outside SETTLE (R37 (i)). -/
theorem scnt_eq_zero (hp : s.phase ≠ .settle) : s.scnt = 0 := by
  by_contra hc
  exact hp (h.scntOnlyInSettle hc)

/-- The invariant of the buffers where one of them is replaced. -/
theorem buffers_withBuffer {S : Buffer} {m : Memory} (hwf : Memory.wf m) (hbelow : Memory.below m (Config.capacity S))
    (T : Buffer) : Memory.wf (bufferOf (withBuffer s S m) T) ∧
      Memory.below (bufferOf (withBuffer s S m) T) (Config.capacity T) := by
  by_cases hT : T = S
  · subst hT
    rw [bufferOf_withBuffer]
    exact ⟨hwf, hbelow⟩
  · rw [bufferOf_withBuffer_ne s hT]
    exact ⟨h.buffersWf T, h.buffersBelow T⟩

/-- A byte written below the capacity keeps a buffer's form. -/
theorem store_buffers {S : Buffer} {i : Nat} {b : Byte} (hi : i < Config.capacity S) (T : Buffer) :
    Memory.wf (bufferOf (withBuffer s S (Memory.store (bufferOf s S) i b)) T) ∧
      Memory.below (bufferOf (withBuffer s S (Memory.store (bufferOf s S) i b)) T) (Config.capacity T) :=
  h.buffers_withBuffer (Memory.wf_store _ _ _ (h.buffersWf S)) (Memory.below_store (h.buffersBelow S) hi) T

/-- Bytes written within the capacity keep a buffer's form. -/
theorem storeAll_buffers {S : Buffer} {bs : List Byte} (hbs : bs.length ≤ Config.capacity S) (T : Buffer) :
    Memory.wf (bufferOf (withBuffer s S (Memory.storeAll (bufferOf s S) 0 bs)) T) ∧
      Memory.below (bufferOf (withBuffer s S (Memory.storeAll (bufferOf s S) 0 bs)) T) (Config.capacity T) :=
  h.buffers_withBuffer (Memory.wf_storeAll _ _ _ (h.buffersWf S))
    (Memory.below_storeAll (h.buffersBelow S) (by omega)) T

/-- The model's own lists do not enter the invariant. -/
theorem turnTaken (p : List HostOp) : Inv (turnTaken s p) := { h with }

/-- A frame stored by a BLD command is valid and of legal length (`41_frame_build.md` R105). -/
theorem frameStored {body : List Byte} (hmin : 2 ≤ body.length) (hmax : body.length ≤ 254) :
    Inv { s with
      txbuf := Memory.storeAll s.txbuf 0 (frameOf body), txlen := BitVec.ofNat 16 (frameOf body).length } := by
  have hlen : (frameOf body).length ≤ 256 := by rw [frameOf_length]; omega
  have hnat := toNat_ofNat_length hlen
  refine { h with
    txlenLegal := .inr ?_
    frameValid := fun _ => ?_
    buffersWf := fun T => (h.storeAll_buffers (S := .txbuf) hlen T).1
    buffersBelow := fun T => (h.storeAll_buffers (S := .txbuf) hlen T).2 }
  · dsimp only
    rw [hnat]
    exact ⟨by rw [frameOf_length]; omega, hlen⟩
  · dsimp only
    rw [hnat, bytesOf_storeAll (s := s) rfl]
    exact validFrame_frameOf hmin

/-- An outcome of the parser meets R37 (f) and (g) (`42_frame_parse.md` R110, R111). -/
theorem outcomeRecorded (esid efc : Byte) (raw : List Byte) : Inv (recordOutcome (parse esid efc raw) s) := by
  obtain ⟨-, hexc, hpay⟩ := parse_outcome esid efc raw
  exact { h with
    excOnlyWithException := hexc
    paylenOnlyWithPayload := fun hp => hpay (ne_zero_of_ofNat_ne_zero hp) }

/-- The acceptance of XFER by an idle engine (`43_transaction.md` R121). -/
theorem xferAccepted (hidle : s.busy = false) : Inv (acceptXfer s) :=
  { h with
    busyIffPhase := ⟨fun _ => nofun, fun _ => rfl⟩
    rxlenLegal := Nat.zero_le _
    excOnlyWithException := fun hc => absurd rfl hc
    paylenOnlyWithPayload := fun hc => absurd rfl hc
    scntOnlyInSettle := fun hc => absurd (h.scnt_eq_zero (by simp [h.phase_idle hidle])) hc }

/-- A completion outside SETTLE, with an outcome that meets R37 (f) and (g) (`43_transaction.md` R127). -/
theorem finished {k : Kind} {e : Byte} {n : Word} (hp : s.phase ≠ .settle) (he : e ≠ 0 → k = .driverException)
    (hn : n ≠ 0 → k = .payload) : Inv (finish k e n s) :=
  { h with
    busyIffPhase := ⟨nofun, fun hc => absurd rfl hc⟩
    excOnlyWithException := he
    paylenOnlyWithPayload := hn
    scntOnlyInSettle := fun hc => absurd (h.scnt_eq_zero hp) hc }

/-- A move of PHASE within a transaction, with SCNT 0 where it stands outside SETTLE. -/
theorem phaseMoved {q : Phase} (hp : s.phase ≠ .idle) (hq : q ≠ .idle) (hc : s.scnt ≠ 0 → q = .settle) :
    Inv { s with phase := q } :=
  { h with
    busyIffPhase := ⟨fun _ => hq, fun _ => h.busy_of_phase hp⟩
    scntOnlyInSettle := hc }

/-- What READ stores fits RXBUF (`43_transaction.md` R125). -/
theorem bytesReceived {bs : List Byte} (hbs : bs.length ≤ 256) :
    Inv { s with rxbuf := Memory.storeAll s.rxbuf 0 bs, rxlen := BitVec.ofNat 16 bs.length } :=
  { h with
    rxlenLegal := (toNat_ofNat_length hbs).trans_le hbs
    buffersWf := fun T => (h.storeAll_buffers (S := .rxbuf) hbs T).1
    buffersBelow := fun T => (h.storeAll_buffers (S := .rxbuf) hbs T).2 }

/-- Every effect of a step keeps the invariant. -/
theorem of_effect {t : State} (heff : StepEffect s t) : Inv t := by
  cases heff with
  | passed p | appended | levelSet | erred p | cleared p | crcInited p | crcUpdated p | sidWritten p | fcWritten p
  | addrWritten p | dataWritten p | esidWritten p | efcWritten p | settleWritten p => exact { h with }
  | ticked hturn hphase hscnt => exact { h with scntOnlyInSettle := fun _ => hphase }
  | built p i hbuild hcmd hidle hfits => exact (h.turnTaken p).frameStored (two_le_buildBody hbuild) hfits
  | parsed p hcmd hidle => exact (h.turnTaken p).outcomeRecorded _ _ _
  | accepted p hcmd hidle hframe => exact (h.turnTaken p).xferAccepted hidle
  | plenWritten p v hacc hidle hlimit => exact { h with plenLegal := hlimit }
  | rxlenWritten p v hacc hidle hlimit => exact { h with rxlenLegal := hlimit }
  | paybufWritten p i b hacc hidle hi =>
    exact { h with
      buffersWf := fun T => ((h.turnTaken p).store_buffers (S := .paybuf) hi T).1
      buffersBelow := fun T => ((h.turnTaken p).store_buffers (S := .paybuf) hi T).2 }
  | rxbufWritten p i b hacc hidle hi =>
    exact { h with
      buffersWf := fun T => ((h.turnTaken p).store_buffers (S := .rxbuf) hi T).1
      buffersBelow := fun T => ((h.turnTaken p).store_buffers (S := .rxbuf) hi T).2 }
  | foundClosed hturn hphase hclosed =>
    have hp : s.phase ≠ .settle := by rcases hphase with hp | hp | hp <;> simp [hp]
    exact (h.turnTaken s.prog).finished hp (fun hc => absurd rfl hc) (fun hc => absurd rfl hc)
  | flushed hturn hphase hopen =>
    have hmoved := (h.turnTaken s.prog).phaseMoved (q := .send) (show s.phase ≠ .idle by simp [hphase]) nofun
      (fun hc => absurd (h.scnt_eq_zero (by simp [hphase])) hc)
    exact { hmoved with }
  | sent hturn hphase hopen =>
    exact { h with
      busyIffPhase := ⟨fun _ => nofun, fun _ => h.busy_of_phase (by simp [hphase])⟩
      scntOnlyInSettle := fun _ => rfl }
  | settled hturn hphase hscnt =>
    exact (h.turnTaken s.prog).phaseMoved (show s.phase ≠ .idle by simp [hphase]) nofun (fun hc => absurd hscnt hc)
  | received hturn hphase hopen =>
    have hlen : (s.chin.take 256).length ≤ 256 := List.length_take_le _ _
    have hmoved := ((h.turnTaken s.prog).bytesReceived hlen).phaseMoved (q := .parse)
      (show s.phase ≠ .idle by simp [hphase]) nofun (fun hc => absurd (h.scnt_eq_zero (by simp [hphase])) hc)
    exact { hmoved with }
  | completed hturn hphase r hr =>
    subst hr
    obtain ⟨-, hexc, hpay⟩ := parse_outcome s.esid s.efc (bytesOf s .rxbuf 0 s.rxlen.toNat)
    exact (h.turnTaken s.prog).finished (show s.phase ≠ .settle by simp [hphase]) hexc
      (fun hc => hpay (ne_zero_of_ofNat_ne_zero hc))

end Inv

/-- Settles O48: whatever a step does, the invariant stays. -/
theorem everyStepKeepsTheInvariant : Obligations.EveryStepKeepsTheInvariant := by
  intro s t hs h
  rcases step_cases h with ⟨-, u, rfl⟩ | ⟨-, heff⟩
  · exact inv_resetEngine u
  · exact hs.of_effect heff

/-- Settles O47: the state right after reset is a reset engine. -/
theorem invariantHoldsAfterReset : Obligations.InvariantHoldsAfterReset := inv_resetEngine State.reset

/-! ### The reset input -/

/-- What a reset engine is, in any state, when the reset input takes the level `asserted` by an event. -/
theorem resetTurn_event {s : State} {asserted : Bool} (h : (asserted || s.resetLine) = true) :
    resetTurn asserted s = { resetEngine s with resetLine := asserted, resets := s.resets + 1 } := if_pos h

/-- A step with a listed turn and the reset input asserted is that agent's turn, ended by the reset of the engine. -/
theorem step_onTurn_held {s : State} (x : Turn) (h : s.resetLine = true) :
    step (onTurn x s) = heldInReset (takeTurn x s) := by
  change (if s.resetLine = true then heldInReset (takeTurn x s) else takeTurn x s) = heldInReset (takeTurn x s)
  exact if_pos h

/-- The step that changes the reset input ends in the reset engine, whether the input was asserted before or not. -/
theorem step_onTurn_reset {s : State} {asserted : Bool} (h : (asserted || s.resetLine) = true) :
    step (onTurn (.reset asserted) s) =
      .next { resetEngine s with resetLine := asserted, resets := s.resets + 1 } := by
  have htake : takeTurn (.reset asserted) s =
      .next { resetEngine s with resetLine := asserted, resets := s.resets + 1 } :=
    congrArg _ (resetTurn_event h)
  cases hline : s.resetLine with
  | false => rw [step_onTurn _ hline, htake]
  | true =>
    rw [step_onTurn_held _ hline, htake]
    rfl

/-- Settles O45: the step that asserts or releases the reset input ends in the reset engine. -/
theorem resetGivesTheResetValues : Obligations.ResetGivesTheResetValues :=
  ⟨rfl, fun _ => ⟨_, step_onTurn_reset rfl, rfl⟩, fun _ hline => ⟨_, step_onTurn_reset (by simp [hline]), rfl⟩⟩

/-! ### Where no step stops (`00_scope.md` R5, `20_memory.md` R54) -/

theorem whenIdle_answers {s : State} {k : Result} (h : ∃ t, k = .next t) : ∃ t, whenIdle s k = .next t := by
  unfold whenIdle
  split
  · exact ⟨_, rfl⟩
  · exact h

theorem ifOpen_answers {s : State} {k : Result} (h : ∃ t, k = .next t) : ∃ t, ifOpen s k = .next t := by
  unfold ifOpen
  split
  · exact h
  · exact ⟨_, rfl⟩

/-- A buffer read within the capacity never stops what follows it. -/
theorem orFault_memRead {s : State} {S : Buffer} {n : Nat} {k : List Byte → Result} (h : n ≤ Config.capacity S) :
    orFault (memRead s S 0 n) k = k (bytesOf s S 0 n) := by
  rw [memRead_fits (by omega)]
  rfl

theorem storeFrame_answers {s : State} {frame : List Byte} (h : frame.length ≤ Config.maxAdu) :
    ∃ t, storeFrame frame s = .next t := ⟨_, storeFrame_next.2 ⟨h, rfl⟩⟩

/-- Where PLEN and RXLEN are within the capacities, every command answers a next state. -/
theorem exec_answers {s : State} (hplen : s.plen.toNat ≤ Config.maxPay) (hrxlen : s.rxlen.toNat ≤ Config.maxAdu)
    (i : Instr) : ∃ t, exec i s = .next t := by
  cases i with
  | nop => exact ⟨s, rfl⟩
  | clr | crcInit | crcUpd => exact whenIdle_answers ⟨_, rfl⟩
  | bldRdh | bldRdi | bldWsr => exact whenIdle_answers (storeFrame_answers (by rw [buildReg_length]; decide))
  | bldCus =>
    refine whenIdle_answers ?_
    rw [orFault_memRead (S := .paybuf) hplen]
    refine storeFrame_answers ?_
    rw [buildCustom, frameOf_length, List.length_cons, List.length_cons, bytesOf_length]
    exact Nat.add_le_add_right hplen 4
  | parse =>
    refine whenIdle_answers ?_
    rw [orFault_memRead (S := .rxbuf) hrxlen]
    exact ⟨_, rfl⟩
  | xfer =>
    refine whenIdle_answers ?_
    split
    · exact ⟨_, rfl⟩
    · exact ⟨_, rfl⟩

theorem command_answers {s : State} (hplen : s.plen.toNat ≤ Config.maxPay) (hrxlen : s.rxlen.toNat ≤ Config.maxAdu)
    (w : Word) : ∃ t, command w s = .next t := by
  unfold command
  split
  · exact exec_answers hplen hrxlen _
  · exact ⟨_, rfl⟩

/-- The host's accesses to no location (`20_memory.md` R54). -/
def NamesNoLocation (a : HostOp) : Prop :=
  (∃ n, 15 < n ∧ (a = .readReg n ∨ ∃ v, a = .writeReg n v)) ∨
  ∃ S i, Config.capacity S ≤ i ∧ (a = .readBuf S i ∨ ∃ b, a = .writeBuf S i b)

/-- A write of a register that exists answers a next state. -/
theorem writeRegister_answers {s : State} (hplen : s.plen.toNat ≤ Config.maxPay)
    (hrxlen : s.rxlen.toNat ≤ Config.maxAdu) (r : RegName) (v : Word) : ∃ t, writeRegister r v s = .next t := by
  cases r with
  | cmd => exact command_answers hplen hrxlen v
  | status | outcome | sid | fc | addr | data | plen | txlen | esid | efc | rxlen | paylen | settle | crcr
  | reserved => exact ⟨_, rfl⟩

/-- Where PLEN and RXLEN are within the capacities, an access answers a next state, or is refused and names no
location. -/
theorem access_answers {s : State} (hplen : s.plen.toNat ≤ Config.maxPay) (hrxlen : s.rxlen.toNat ≤ Config.maxAdu)
    (a : HostOp) : (∃ t, access a s = .next t) ∨ ((∃ r, access a s = .refused r) ∧ NamesNoLocation a) := by
  cases a with
  | readReg n =>
    cases hn : regOfNumber n with
    | some r =>
      simp only [access, hn]
      exact .inl ⟨_, rfl⟩
    | none =>
      simp only [access, hn]
      exact .inr ⟨⟨_, rfl⟩, .inl ⟨n, regOfNumber_none.1 hn, .inl rfl⟩⟩
  | writeReg n v =>
    cases hn : regOfNumber n with
    | some r =>
      simp only [access, hn]
      exact .inl (writeRegister_answers hplen hrxlen r v)
    | none =>
      simp only [access, hn]
      exact .inr ⟨⟨_, rfl⟩, .inl ⟨n, regOfNumber_none.1 hn, .inr ⟨v, rfl⟩⟩⟩
  | readBuf S i =>
    by_cases hi : i < Config.capacity S
    · exact .inl ⟨_, if_pos hi⟩
    · exact .inr ⟨⟨_, if_neg hi⟩, .inr ⟨S, i, Nat.le_of_not_lt hi, .inl rfl⟩⟩
  | writeBuf S i b =>
    by_cases hi : i < Config.capacity S
    · exact .inl ⟨_, if_pos hi⟩
    · exact .inr ⟨⟨_, if_neg hi⟩, .inr ⟨S, i, Nat.le_of_not_lt hi, .inr ⟨b, rfl⟩⟩⟩
  | wait => exact .inl ⟨_, rfl⟩

/-- Where TXLEN and RXLEN are within the capacities, the engine's turn answers a next state. -/
theorem engineTurn_answers {s : State} (htxlen : s.txlen.toNat ≤ Config.maxAdu)
    (hrxlen : s.rxlen.toNat ≤ Config.maxAdu) : ∃ t, engineTurn s = .next t := by
  unfold engineTurn
  split
  case h_1 => exact ⟨s, rfl⟩
  case h_2 => exact ifOpen_answers ⟨_, rfl⟩
  case h_3 =>
    refine ifOpen_answers ?_
    rw [orFault_memRead (S := .txbuf) htxlen]
    exact ⟨_, rfl⟩
  case h_4 =>
    unfold settleStep
    split
    · exact ⟨_, rfl⟩
    · exact ⟨_, rfl⟩
  case h_5 =>
    refine ifOpen_answers ?_
    have hlen : (s.chin.take Config.rdMax).length ≤ Config.rdMax := List.length_take_le _ _
    dsimp only [chRead]
    rw [memWrite_fits (S := .rxbuf) (by rw [Nat.zero_add]; exact hlen)]
    exact ⟨_, rfl⟩
  case h_6 =>
    unfold parseStep
    rw [orFault_memRead (S := .rxbuf) hrxlen]
    exact ⟨_, rfl⟩

/-- TXLEN never leaves the capacity of TXBUF (R37 (b)). -/
theorem Inv.txlen_le {s : State} (h : Inv s) : s.txlen.toNat ≤ Config.maxAdu := by
  rcases h.txlenLegal with h0 | ⟨-, hmax⟩
  · rw [h0]
    exact Nat.zero_le _
  · exact hmax

/-- Where the invariant holds, the host's turn answers a next state, or is refused for its next access, which names no
location. -/
theorem Inv.hostTurn_answers {s : State} (h : Inv s) :
    (∃ t, hostTurn s = .next t) ∨
      ((∃ r, hostTurn s = .refused r) ∧ ∃ a rest, s.prog = a :: rest ∧ NamesNoLocation a) := by
  unfold hostTurn
  split
  · exact .inl ⟨s, rfl⟩
  · rename_i a rest hprog
    exact (access_answers (s := { s with prog := rest }) h.plenLegal h.rxlenLegal a).imp id
      fun ⟨hrefused, hnone⟩ => ⟨hrefused, a, rest, hprog, hnone⟩

/-- Where the invariant holds, a turn answers a next state, or is the host's and refused for its next access, which
names no location. -/
theorem Inv.takeTurn_answers {s : State} (h : Inv s) (x : Turn) :
    (∃ t, takeTurn x s = .next t) ∨
      ((∃ r, takeTurn x s = .refused r) ∧ x = .host ∧ ∃ a rest, s.prog = a :: rest ∧ NamesNoLocation a) := by
  cases x with
  | host => exact h.hostTurn_answers.imp id fun ⟨hrefused, hnone⟩ => ⟨hrefused, rfl, hnone⟩
  | engine => exact .inl (engineTurn_answers h.txlen_le h.rxlenLegal)
  | tick | remote | owner | reset => exact .inl ⟨_, rfl⟩

/-- Where the invariant holds, a step answers a next state, or is refused for the host's next access, which names no
location. -/
theorem Inv.step_answers {s : State} (h : Inv s) :
    (∃ t, step s = .next t) ∨ ((∃ r, step s = .refused r) ∧ ∃ a, NextIsAccess s a ∧ NamesNoLocation a) := by
  unfold step runTurn
  rw [nextTurn_snd]
  rcases (h.turnTaken s.prog).takeTurn_answers (nextTurn s).1 with
    ⟨t, ht⟩ | ⟨⟨r, hr⟩, hturn, a, rest, hprog, hnone⟩
  · rw [ht]
    split
    · exact .inl ⟨_, rfl⟩
    · exact .inl ⟨t, rfl⟩
  · rw [hr]
    refine .inr ⟨?_, a, ⟨hturn, rest, hprog⟩, hnone⟩
    split
    · exact ⟨r, rfl⟩
    · exact ⟨r, rfl⟩

/-- Settles O49: by the lengths of the invariant every buffer operation fits. -/
theorem invariantStatesNeverStop : Obligations.InvariantStatesNeverStop := by
  intro s hs
  rcases hs.step_answers with ⟨t, ht⟩ | ⟨⟨r, hr⟩, a, hacc, hnone⟩
  · rw [ht]
    exact ⟨nofun, nofun⟩
  · rw [hr]
    refine ⟨nofun, fun _ _ => ?_⟩
    rcases hnone with ⟨n, hn, rfl | ⟨v, rfl⟩⟩ | ⟨S, i, hi, rfl | ⟨b, rfl⟩⟩
    · exact .inl ⟨n, hn, .inl hacc⟩
    · exact .inl ⟨n, hn, .inr ⟨v, hacc⟩⟩
    · exact .inr ⟨S, i, hi, .inl hacc⟩
    · exact .inr ⟨S, i, hi, .inr ⟨b, hacc⟩⟩

/-! ### Who writes what, read off the effects -/

/-- Settles O50: the one effect that starts a transaction needs an idle engine, the others that move PHASE name it. -/
theorem phaseMovesInOrder : Obligations.PhaseMovesInOrder := by
  intro s t hs h hreset
  unfold PhaseMove
  cases step_effect h hreset with
  | accepted p hcmd hidle hframe => exact .inr (.inl ⟨hs.phase_idle hidle, rfl⟩)
  | foundClosed hturn hphase hclosed =>
    rcases hphase with hp | hp | hp <;> simp [hp]
  | flushed hturn hphase hopen | sent hturn hphase hopen | settled hturn hphase hscnt | received hturn hphase hopen
  | completed hturn hphase r hr => simp [hphase]
  | _ => exact .inl rfl

/-- Settles O51: only an accepted XFER sets BUSY, only a completion clears it. -/
theorem busySpansOneTransaction : Obligations.BusySpansOneTransaction := by
  intro s t hs h
  rcases step_cases h with ⟨hreset, u, rfl⟩ | ⟨-, heff⟩
  · exact ⟨nofun, fun _ _ => .inl hreset⟩
  cases heff with
  | accepted p hcmd hidle hframe => exact ⟨fun _ _ => ⟨hcmd, hframe, rfl⟩, nofun⟩
  | foundClosed hturn hphase hclosed => exact ⟨nofun, fun _ _ => .inr ⟨hturn, rfl, nofun⟩⟩
  | completed hturn hphase r hr =>
    subst hr
    exact ⟨nofun, fun _ _ => .inr ⟨hturn, rfl, (parse_outcome _ _ _).1⟩⟩
  | _ => exact ⟨fun hidle hbusy => absurd (hidle.symm.trans hbusy) nofun,
      fun hbusy hidle => absurd (hidle.symm.trans hbusy) nofun⟩

/-- Settles O52: a mistake sets ERR alone, and CLR clears it. -/
theorem errIsSetByHostMistakesOnly : Obligations.ErrIsSetByHostMistakesOnly := by
  intro s t h
  rcases step_cases h with ⟨hreset, u, rfl⟩ | ⟨-, heff⟩
  · exact ⟨fun _ _ => .inr hreset, nofun⟩
  cases heff with
  | erred p hmistake =>
    rw [nextTurn_snd]
    exact ⟨nofun, fun _ _ => ⟨rfl, hmistake⟩⟩
  | cleared p hcmd hidle => exact ⟨fun _ _ => .inl ⟨hcmd, hidle⟩, nofun⟩
  | _ => exact ⟨fun hset hclear => absurd (hclear.symm.trans hset) nofun,
      fun hclear hset => absurd (hclear.symm.trans hset) nofun⟩

/-- Settles O53: DONE is set with an outcome, by PARSE or a completion; CLR and XFER clear it. -/
theorem doneMarksACompletion : Obligations.DoneMarksACompletion := by
  intro s t h
  rcases step_cases h with ⟨hreset, u, rfl⟩ | ⟨-, heff⟩
  · exact ⟨nofun, fun _ _ => .inr hreset⟩
  cases heff with
  | cleared p hcmd hidle => exact ⟨nofun, fun _ _ => .inl ⟨hidle, .inl hcmd⟩⟩
  | parsed p hcmd hidle => exact ⟨fun _ _ => ⟨(parse_outcome _ _ _).1, .inl ⟨hcmd, hidle⟩⟩, nofun⟩
  | accepted p hcmd hidle hframe => exact ⟨nofun, fun _ _ => .inl ⟨hidle, .inr ⟨hcmd, hframe⟩⟩⟩
  | foundClosed hturn hphase hclosed =>
    have hp : s.phase ≠ .idle ∧ s.phase ≠ .settle := by rcases hphase with hp | hp | hp <;> simp [hp]
    exact ⟨fun _ _ => ⟨nofun, .inr ⟨hturn, hp.1, hp.2, rfl, rfl⟩⟩, nofun⟩
  | completed hturn hphase r hr =>
    subst hr
    exact ⟨fun _ _ => ⟨(parse_outcome _ _ _).1, .inr ⟨hturn, by simp [hphase], by simp [hphase], rfl, rfl⟩⟩, nofun⟩
  | _ => exact ⟨fun hclear hset => absurd (hclear.symm.trans hset) nofun,
      fun hset hclear => absurd (hclear.symm.trans hset) nofun⟩

/-- Settles O54: no effect but the two of the CRC unit names CRCR. -/
theorem crcrIsWrittenByTheCrcUnitOnly : Obligations.CrcrIsWrittenByTheCrcUnitOnly := by
  intro s t h hchanged
  rcases step_cases h with ⟨hreset, -⟩ | ⟨-, heff⟩
  · exact .inl hreset
  cases heff with
  | crcInited p hcmd hidle => exact .inr ⟨hidle, .inl hcmd⟩
  | crcUpdated p b hcmd hidle => exact .inr ⟨hidle, .inr ⟨b, hcmd⟩⟩
  | _ => exact absurd rfl hchanged

/-- The words of the four BLD commands (`30_encoding.md` R67). -/
theorem encode_mem_of_isBuild {i : Instr} (h : IsBuild i) :
    encode i ∈ ([0x0020, 0x0021, 0x0022, 0x0023] : List Word) := by
  rcases h with rfl | rfl | rfl | rfl <;> decide

/-- Settles O55: no effect but that of a BLD command names TXBUF or TXLEN. -/
theorem txbufIsWrittenByTheBuilderOnly : Obligations.TxbufIsWrittenByTheBuilderOnly := by
  intro s t h hchanged
  rcases step_cases h with ⟨hreset, -⟩ | ⟨-, heff⟩
  · exact .inl hreset
  cases heff with
  | built p i hbuild hcmd hidle hfits => exact .inr ⟨hidle, _, encode_mem_of_isBuild hbuild, hcmd⟩
  | _ => exact absurd hchanged (not_or.2 ⟨(absurd rfl ·), (absurd rfl ·)⟩)

/-- Settles O56: each operand register and PAYBUF is named by one effect, the host's write of it. -/
theorem operandRegistersAreWrittenByTheHostOnly : Obligations.OperandRegistersAreWrittenByTheHostOnly := by
  intro s t h hreset
  have heff := step_effect h hreset
  refine ⟨fun hne => ?sid, fun hne => ?fc, fun hne => ?addr, fun hne => ?data, fun hne => ?plen, fun hne => ?esid,
    fun hne => ?efc, fun hne => ?settle, fun hne => ?paybuf⟩
  case sid =>
    cases heff with
    | sidWritten p v hacc hidle => exact ⟨hidle, v, hacc⟩
    | _ => exact absurd rfl hne
  case fc =>
    cases heff with
    | fcWritten p v hacc hidle => exact ⟨hidle, v, hacc⟩
    | _ => exact absurd rfl hne
  case addr =>
    cases heff with
    | addrWritten p v hacc hidle => exact ⟨hidle, v, hacc⟩
    | _ => exact absurd rfl hne
  case data =>
    cases heff with
    | dataWritten p v hacc hidle => exact ⟨hidle, v, hacc⟩
    | _ => exact absurd rfl hne
  case plen =>
    cases heff with
    | plenWritten p v hacc hidle => exact ⟨hidle, v, hacc⟩
    | _ => exact absurd rfl hne
  case esid =>
    cases heff with
    | esidWritten p v hacc hidle => exact ⟨hidle, v, hacc⟩
    | _ => exact absurd rfl hne
  case efc =>
    cases heff with
    | efcWritten p v hacc hidle => exact ⟨hidle, v, hacc⟩
    | _ => exact absurd rfl hne
  case settle =>
    cases heff with
    | settleWritten p v hacc hidle => exact ⟨hidle, v, hacc⟩
    | _ => exact absurd rfl hne
  case paybuf =>
    cases heff with
    | paybufWritten p i b hacc hidle => exact ⟨hidle, i, b, hacc⟩
    | _ => exact absurd rfl hne

/-- Settles O57: the effects that name each result register. -/
theorem resultRegistersHaveTheseWriters : Obligations.ResultRegistersHaveTheseWriters := by
  intro s t h hreset
  have heff := step_effect h hreset
  refine ⟨fun hne => ?rxlen, fun hne => ?rxbuf, fun hne => ?outcome, fun hne => ?scnt⟩
  case rxlen =>
    cases heff with
    | accepted p hcmd hidle hframe => exact .inl ⟨hidle, .inr ⟨hcmd, hframe⟩⟩
    | rxlenWritten p v hacc hidle => exact .inl ⟨hidle, .inl ⟨v, hacc⟩⟩
    | received hturn hphase hopen => exact .inr ⟨hturn, hphase, hopen, rfl⟩
    | _ => exact absurd rfl hne
  case rxbuf =>
    cases heff with
    | rxbufWritten p i b hacc hidle => exact .inl ⟨hidle, i, b, hacc⟩
    | received hturn hphase hopen => exact .inr ⟨hturn, hphase, hopen, rfl⟩
    | _ => exact absurd rfl hne
  case outcome =>
    cases heff with
    | parsed p hcmd hidle => exact .inl ⟨hidle, .inl hcmd⟩
    | accepted p hcmd hidle hframe => exact .inl ⟨hidle, .inr ⟨hcmd, hframe⟩⟩
    | foundClosed hturn hphase hclosed =>
      have hp : s.phase = .flush ∨ s.phase = .send ∨ s.phase = .read ∨ s.phase = .parse :=
        hphase.imp id (.imp id .inl)
      exact .inr ⟨hturn, hp, rfl, rfl, rfl⟩
    | completed hturn hphase => exact .inr ⟨hturn, .inr (.inr (.inr hphase)), rfl, rfl, rfl⟩
    | _ => exact absurd hne (not_or.2 ⟨(absurd rfl ·), not_or.2 ⟨(absurd rfl ·), (absurd rfl ·)⟩⟩)
  case scnt =>
    cases heff with
    | ticked hturn hphase hscnt => exact .inr ⟨hturn, hphase⟩
    | sent hturn hphase hopen => exact .inl ⟨hturn, hphase, hopen, rfl⟩
    | _ => exact absurd rfl hne

end Sys2Proof.Machine
end

section
/-! What one host access does, said once for each kind of access (`20_memory.md` R44 to R49, R54), and the statements
about the host port. -/

namespace Sys2Proof.Machine

/-! ### A write of a buffer byte -/

/-- After one byte of a buffer is stored, that byte reads back and every other byte reads as before. -/
theorem byteOf_withBuffer_store (s : State) (S : Buffer) (i a : Nat) (b : Byte) :
    byteOf (withBuffer s S (Memory.store (bufferOf s S) i b)) S a = if a = i then b else byteOf s S a := by
  unfold byteOf
  rw [bufferOf_withBuffer, Memory.byteAt_store, withBuffer_resets]
  split
  · rfl
  · rfl

/-- A write of a buffer byte below the capacity is that of the host port (`20_memory.md` R49). -/
theorem step_writeBuf {s : State} {S : Buffer} {i : Nat} (hline : s.resetLine = false) (hi : i < Config.capacity S)
    (b : Byte) : step (onAccess (.writeBuf S i b) s) = .next (writeByte S i b s) := by
  rw [step_onAccess _ hline]
  exact if_pos hi

/-- While busy the host's write of a byte it could write while idle sets ERR alone. -/
theorem writeByte_busy {s : State} {S : Buffer} (hbusy : s.busy = true) (hS : S ≠ .txbuf) (i : Nat) (b : Byte) :
    writeByte S i b s = raiseErr s := by
  cases S with
  | txbuf => exact absurd rfl hS
  | paybuf | rxbuf => exact if_pos hbusy

/-- While idle the host's write stores the byte in the one buffer, TXBUF excepted. -/
theorem writeByte_idle {s : State} {S : Buffer} (hidle : s.busy = false) (hS : S ≠ .txbuf) (i : Nat) (b : Byte) :
    writeByte S i b s = withBuffer s S (Memory.store (bufferOf s S) i b) := by
  have hnot : ¬ s.busy = true := by simp [hidle]
  cases S with
  | txbuf => exact absurd rfl hS
  | paybuf | rxbuf => exact if_neg hnot

theorem step_writeBuf_busy {s : State} {S : Buffer} {i : Nat} (hline : s.resetLine = false) (hbusy : s.busy = true)
    (hS : S ≠ .txbuf) (hi : i < Config.capacity S) (b : Byte) :
    step (onAccess (.writeBuf S i b) s) = .next (raiseErr s) := by
  rw [step_writeBuf hline hi, writeByte_busy hbusy hS]

/-- While idle a write of PAYBUF or RXBUF below the capacity answers the state with that one buffer replaced, in which
the byte reads back and every other byte reads as before. -/
theorem step_writeBuf_idle {s : State} {S : Buffer} {i : Nat} (hline : s.resetLine = false) (hidle : s.busy = false)
    (hS : S ≠ .txbuf) (hi : i < Config.capacity S) (b : Byte) :
    ∃ m, step (onAccess (.writeBuf S i b) s) = .next (withBuffer s S m) ∧ byteOf (withBuffer s S m) S i = b ∧
      ∀ a, a ≠ i → byteOf (withBuffer s S m) S a = byteOf s S a := by
  refine ⟨Memory.store (bufferOf s S) i b, ?_, ?_, fun a ha => ?_⟩
  · rw [step_writeBuf hline hi, writeByte_idle hidle hS]
  · rw [byteOf_withBuffer_store, if_pos rfl]
  · rw [byteOf_withBuffer_store, if_neg ha]

/-- Settles O41: by the buffer and BUSY, the write is ignored, sets ERR alone, or stores the byte in that buffer. -/
theorem bufferWrite : Obligations.BufferWrite := by
  intro s i b hline
  refine ⟨fun hi => step_writeBuf hline (S := .txbuf) hi b,
    fun hbusy hi => step_writeBuf_busy hline hbusy (S := .paybuf) nofun hi b,
    fun hbusy hi => step_writeBuf_busy hline hbusy (S := .rxbuf) nofun hi b, fun hidle hi => ?paybuf,
    fun hidle hi => ?rxbuf⟩
  case paybuf =>
    obtain ⟨m, hstep, hwritten, hothers⟩ := step_writeBuf_idle hline hidle (S := .paybuf) nofun hi b
    exact ⟨_, hstep, rfl, hwritten, hothers⟩
  case rxbuf =>
    obtain ⟨m, hstep, hwritten, hothers⟩ := step_writeBuf_idle hline hidle (S := .rxbuf) nofun hi b
    exact ⟨_, hstep, rfl, hwritten, hothers⟩

/-! ### A read of a register -/

theorem toNat_append_eq_add {m n : Nat} (x : BitVec m) (y : BitVec n) :
    (x ++ y).toNat = x.toNat * 2 ^ n + y.toNat := by
  rw [BitVec.toNat_append, ← Nat.shiftLeft_add_eq_or_of_lt y.isLt, Nat.shiftLeft_eq]

/-- The fields of STATUS by their weights (`10_state.md` R15). -/
theorem statusWord_eq_ofNat (s : State) :
    statusWord s = BitVec.ofNat 16 (s.busy.toNat + 2 * s.done.toNat + 4 * s.err.toNat + 8 * s.chOpen.toNat +
      16 * (phaseCode s.phase).toNat) := by
  have hbusy := s.busy.toNat_le
  have hdone := s.done.toNat_le
  have herr := s.err.toNat_le
  have hopen := s.chOpen.toNat_le
  have hphase := (phaseCode s.phase).isLt
  refine BitVec.eq_of_toNat_eq ?_
  simp only [statusWord, toNat_append_eq_add, BitVec.toNat_ofBool, BitVec.ofNat_eq_ofNat, BitVec.toNat_ofNat]
  omega

/-- The fields of OUTCOME by their weights (`10_state.md` R20). -/
theorem outcomeWord_eq_ofNat (s : State) :
    outcomeWord s = BitVec.ofNat 16 ((kindCode s.kind).toNat + 256 * s.exc.toNat) := by
  have hkind := (kindCode s.kind).isLt
  have hexc := s.exc.isLt
  refine BitVec.eq_of_toNat_eq ?_
  simp only [outcomeWord, toNat_append_eq_add, BitVec.ofNat_eq_ofNat, BitVec.toNat_ofNat]
  omega

theorem step_readReg {s : State} (hline : s.resetLine = false) (r : RegName) :
    step (onAccess (.readReg (regNumber r)) s) = .next { s with readData := readRegister s r } := by
  rw [step_onAccess _ hline, access, regOfNumber_some.2 rfl]

/-- A read of a register returns `v` wherever `v` is what the register reads as. -/
theorem step_readReg_eq {s : State} {r : RegName} {v : Word} (hline : s.resetLine = false)
    (hv : readRegister s r = v) : step (onAccess (.readReg (regNumber r)) s) = .next { s with readData := v } := by
  rw [step_readReg hline, hv]

/-- Settles O38: each register reads as the assembled, the zero-extended or the whole value of its field. -/
theorem hostReadOfEachRegister : Obligations.HostReadOfEachRegister := by
  intro s hline
  exact ⟨step_readReg hline .cmd, step_readReg_eq (r := .status) hline (statusWord_eq_ofNat s),
    step_readReg_eq (r := .outcome) hline (outcomeWord_eq_ofNat s),
    step_readReg_eq (r := .sid) hline (BitVec.ofNat_toNat 16 s.sid).symm,
    step_readReg_eq (r := .fc) hline (BitVec.ofNat_toNat 16 s.fc).symm,
    step_readReg hline .addr, step_readReg hline .data, step_readReg hline .plen, step_readReg hline .txlen,
    step_readReg_eq (r := .esid) hline (BitVec.ofNat_toNat 16 s.esid).symm,
    step_readReg_eq (r := .efc) hline (BitVec.ofNat_toNat 16 s.efc).symm,
    step_readReg hline .rxlen, step_readReg hline .paylen, step_readReg hline .settle, step_readReg hline .crcr,
    step_readReg hline .reserved⟩

/-! ### A write of a register -/

theorem step_writeReg {s : State} (hline : s.resetLine = false) (r : RegName) (v : Word) :
    step (onAccess (.writeReg (regNumber r) v) s) = writeRegister r v s := by
  rw [step_onAccess _ hline, access, regOfNumber_some.2 rfl]

/-- A write of a register other than CMD is the busy or the idle engine's. -/
theorem writeRegister_of_ne_cmd {r : RegName} (hr : r ≠ .cmd) (v : Word) (s : State) :
    writeRegister r v s = .next (if s.busy then writeBusy r s else writeIdle r v s) := by
  cases r with
  | cmd => exact absurd rfl hr
  | status | outcome | sid | fc | addr | data | plen | txlen | esid | efc | rxlen | paylen | settle | crcr
  | reserved => rfl

theorem writeIdle_of_not_hostWritable {r : RegName} (hr : hostWritable r = false) (v : Word) (s : State) :
    writeIdle r v s = s := by
  cases r with
  | cmd | status | outcome | txlen | paylen | crcr | reserved => rfl
  | sid | fc | addr | data | plen | esid | efc | rxlen | settle => cases hr

/-- A write of a register other than CMD while idle. -/
theorem step_writeReg_idle {s : State} (hline : s.resetLine = false) (hidle : s.busy = false) {r : RegName}
    (hr : r ≠ .cmd) (v : Word) : step (onAccess (.writeReg (regNumber r) v) s) = .next (writeIdle r v s) := by
  rw [step_writeReg hline, writeRegister_of_ne_cmd hr, hidle, if_neg Bool.false_ne_true]

/-- A write of a host-writable register while busy sets ERR alone (`20_memory.md` R46). -/
theorem step_writeReg_busy {s : State} (hline : s.resetLine = false) (hbusy : s.busy = true) {r : RegName}
    (hr : hostWritable r = true) (v : Word) :
    step (onAccess (.writeReg (regNumber r) v) s) = .next (raiseErr s) := by
  have hcmd : r ≠ .cmd := by
    rintro rfl
    cases hr
  rw [step_writeReg hline, writeRegister_of_ne_cmd hcmd, if_pos hbusy, writeBusy, if_pos hr]

/-- A write of a read-only or reserved register does nothing, busy or idle (`20_memory.md` R45, R46). -/
theorem step_writeReg_ignored {s : State} (hline : s.resetLine = false) {r : RegName} (hcmd : r ≠ .cmd)
    (hr : hostWritable r = false) (v : Word) : step (onAccess (.writeReg (regNumber r) v) s) = .next s := by
  have hbusy : writeBusy r s = s := if_neg (by simp [hr])
  rw [step_writeReg hline, writeRegister_of_ne_cmd hcmd, hbusy, writeIdle_of_not_hostWritable hr, ite_self]

/-- The numbers R46 lists as host-writable are those of such registers. -/
theorem exists_hostWritable_of_mem :
    ∀ n ∈ [3, 4, 5, 6, 7, 9, 10, 11, 13], ∃ r ∈ regFile, regNumber r = n ∧ hostWritable r = true := by decide

/-- The numbers left beside CMD are those of the read-only and reserved registers. -/
theorem exists_not_hostWritable_of_mem :
    ∀ n ∈ [1, 2, 8, 12, 14, 15], ∃ r ∈ regFile, regNumber r = n ∧ r ≠ .cmd ∧ hostWritable r = false := by decide

theorem step_writeReg_ignored_of_mem {s : State} (hline : s.resetLine = false) (v : Word) {n : Nat}
    (hn : n ∈ [1, 2, 8, 12, 14, 15]) : step (onAccess (.writeReg n v) s) = .next s := by
  obtain ⟨r, -, rfl, hcmd, hr⟩ := exists_not_hostWritable_of_mem n hn
  exact step_writeReg_ignored hline hcmd hr v

theorem command_of_decode_ok {w : Word} {i : Instr} (h : decode w = .ok i) (s : State) :
    command w s = exec i s := by
  rw [command, h]

theorem command_of_decode_error {w : Word} {e : DecodeError} (h : decode w = .error e) (s : State) :
    command w s = .next (raiseErr s) := by
  rw [command, h]

/-- Settles O39: a write of CMD is a command, a write of another register is that of the idle engine. -/
theorem registerWriteWhileIdle : Obligations.RegisterWriteWhileIdle := by
  intro s v hline hidle
  have hplen := step_writeReg_idle hline hidle (r := .plen) nofun v
  have hrxlen := step_writeReg_idle hline hidle (r := .rxlen) nofun v
  exact ⟨fun i hi => (step_writeReg hline .cmd v).trans (command_of_decode_ok hi s),
    fun e he => (step_writeReg hline .cmd v).trans (command_of_decode_error he s),
    fun n hn => step_writeReg_ignored_of_mem hline v hn,
    step_writeReg_idle hline hidle (r := .sid) nofun v, step_writeReg_idle hline hidle (r := .fc) nofun v,
    step_writeReg_idle hline hidle (r := .addr) nofun v, step_writeReg_idle hline hidle (r := .data) nofun v,
    hplen.trans (apply_ite Host.Outcome.next _ _ _), step_writeReg_idle hline hidle (r := .esid) nofun v,
    step_writeReg_idle hline hidle (r := .efc) nofun v, hrxlen.trans (apply_ite Host.Outcome.next _ _ _),
    step_writeReg_idle hline hidle (r := .settle) nofun v⟩

/-- Every command but NOP is refused with ERR alone while BUSY (`44_system.md` R143). -/
theorem exec_of_busy {s : State} {i : Instr} (hbusy : s.busy = true) (hi : i ≠ .nop) :
    exec i s = .next (raiseErr s) := by
  cases i with
  | nop => exact absurd rfl hi
  | clr | crcInit | crcUpd | bldRdh | bldRdi | bldWsr | bldCus | parse | xfer => exact whenIdle_busy hbusy

/-- Every command word but 0x0000, reserved or not, sets ERR alone while BUSY (`44_system.md` R142, R143). -/
theorem command_of_busy {s : State} {w : Word} (hbusy : s.busy = true) (hw : w ≠ 0x0000) :
    command w s = .next (raiseErr s) := by
  cases hdec : decode w with
  | error e => exact command_of_decode_error hdec s
  | ok i =>
    have hi : i ≠ .nop := by
      rintro rfl
      exact hw (encode_of_decode hdec).symm
    rw [command_of_decode_ok hdec, exec_of_busy hbusy hi]

/-- Settles O40: NOP alone passes while BUSY, the other writes set ERR or are ignored. -/
theorem registerWriteWhileBusy : Obligations.RegisterWriteWhileBusy := by
  intro s v hline hbusy
  refine ⟨?cmd, fun n hn => ?writable, fun n hn => step_writeReg_ignored_of_mem hline v hn⟩
  case cmd =>
    refine (step_writeReg hline .cmd v).trans ?_
    by_cases hv : v = 0x0000
    · rw [if_pos hv, hv]
      rfl
    · rw [if_neg hv]
      exact command_of_busy hbusy hv
  case writable =>
    obtain ⟨r, -, rfl, hr⟩ := exists_hostWritable_of_mem n hn
    exact step_writeReg_busy hline hbusy hr v

/-! ### A read of a buffer byte -/

theorem step_readBuf {s : State} {S : Buffer} {i : Nat} (hline : s.resetLine = false) (hi : i < Config.capacity S) :
    step (onAccess (.readBuf S i) s) = .next (readByte S i s) := by
  rw [step_onAccess _ hline]
  exact if_pos hi

/-- Below the length register a read returns the buffer's byte (`20_memory.md` R48). -/
theorem readByte_below {s : State} {S : Buffer} {i : Nat} (h : i < (lengthRegister s S).toNat) :
    readByte S i s = { s with readData := BitVec.ofNat 16 (byteOf s S i).toNat } := by
  rw [BitVec.ofNat_toNat]
  exact if_pos h

/-- At or above the length register a read returns the next free byte (`20_memory.md` R48). -/
theorem readByte_above {s : State} {S : Buffer} {i : Nat} (h : (lengthRegister s S).toNat ≤ i) :
    readByte S i s =
      { s with readData := BitVec.ofNat 16 (Config.staleRead s.draws S i).toNat, draws := s.draws + 1 } := by
  rw [BitVec.ofNat_toNat]
  exact if_neg (Nat.not_lt.2 h)

theorem byteOf_of_byteAt {s : State} {S : Buffer} {i : Nat} {b : Byte}
    (h : Memory.byteAt (bufferOf s S) i = some b) : byteOf s S i = b := by
  rw [byteOf, h, Option.getD_some]

/-- Settles O42: below the length register the byte that stands there, elsewhere a free one. -/
theorem bufferRead : Obligations.BufferRead := by
  intro s S i hline hi
  rw [step_readBuf hline hi]
  refine ⟨fun hlen b hb => ?_, fun hlen _ => ?_, fun hlen => ?_⟩
  · rw [readByte_below hlen, byteOf_of_byteAt hb]
  · exact ⟨byteOf s S i, by rw [readByte_below hlen]⟩
  · exact ⟨Config.staleRead s.draws S i, by rw [readByte_above hlen]⟩

/-! ### An access that names no location -/

/-- Settles O43: above 15 no number names a register, and the host port checks a buffer index first. -/
theorem noSuchLocationIsRefused : Obligations.NoSuchLocationIsRefused := by
  intro s n v S i b hline
  simp only [step_onAccess _ hline]
  refine ⟨fun hn => ?_, fun hi => ?_⟩
  · simp only [access, regOfNumber_none.2 hn, and_self]
  · have hout : ¬ i < Config.capacity S := Nat.not_lt.2 hi
    exact ⟨if_neg hout, if_neg hout⟩

end Sys2Proof.Machine
end

section
/-! The command word (`30_encoding.md` R65 to R69): which words each row of the command table accepts, said field by
field, the decoder as the inverse of the encoder, and what a write of a word to CMD does. -/

namespace Sys2Proof.Machine

/-! ### The two fields of a word (R65) -/

/-- Two words with the same op and the same immediate are the same word. -/
theorem eq_iff_fields {v w : Word} : v = w ↔ opField v = opField w ∧ immField v = immField w := by
  constructor
  · rintro rfl
    exact ⟨rfl, rfl⟩
  · rintro ⟨hop, himm⟩
    calc v = wordOf (opField v) (immField v) := (wordOf_lo_hi v).symm
      _ = wordOf (opField w) (immField w) := by rw [hop, himm]
      _ = w := wordOf_lo_hi w

theorem opField_and (v w : Word) : opField (v &&& w) = opField v &&& opField w := BitVec.extractLsb'_and

theorem immField_and (v w : Word) : immField (v &&& w) = immField v &&& immField w := BitVec.extractLsb'_and

/-! ### The rows of the command table (R67) -/

/-- A row matches a word field by field. -/
theorem accepts_iff_fields (r : Row) (w : Word) :
    r.accepts w = true ↔
      opField w &&& opField r.mask = opField r.pattern ∧ immField w &&& immField r.mask = immField r.pattern := by
  rw [Row.accepts, beq_iff_eq, eq_iff_fields, opField_and, immField_and]

/-- Every row matches the whole op. -/
theorem opField_mask : ∀ r ∈ commandTable, opField r.mask = 0xFF := by decide

/-- No two rows have the same op. -/
theorem commandTable_ops_nodup : (commandTable.map fun r => opField r.pattern).Nodup := by decide

/-- A row accepts words of its own op alone. -/
theorem opField_of_accepts {r : Row} {w : Word} (hr : r ∈ commandTable) (h : r.accepts w = true) :
    opField w = opField r.pattern := by
  obtain ⟨hop, -⟩ := (accepts_iff_fields r w).1 h
  rw [opField_mask r hr] at hop
  exact BitVec.and_allOnes.symm.trans hop

/-- At most one row accepts a word. -/
theorem eq_of_accepts {r q : Row} {w : Word} (hr : r ∈ commandTable) (hq : q ∈ commandTable)
    (hrw : r.accepts w = true) (hqw : q.accepts w = true) : r = q :=
  List.inj_on_of_nodup_map commandTable_ops_nodup hr hq
    ((opField_of_accepts hr hrw).symm.trans (opField_of_accepts hq hqw))

/-- Settles O4: a row accepts words of its own op alone, and no two rows have the same op. -/
theorem noWordMatchesTwoRows : Obligations.NoWordMatchesTwoRows := by
  intro w a b ha hb haw hbw
  have hrow : commandTable[a] = commandTable[b] :=
    eq_of_accepts (List.getElem_mem ha) (List.getElem_mem hb) haw hbw
  exact (commandTable_ops_nodup.of_map.getElem_inj_iff).1 hrow

/-! ### The decoder -/

/-- The decoder builds the instruction of a row that accepts the word, since no other row does. -/
theorem decode_of_accepts {r : Row} {w : Word} (hr : r ∈ commandTable) (h : r.accepts w = true) :
    decode w = .ok (r.build (immField w)) := by
  unfold decode
  split
  · rename_i q hq
    rw [eq_of_accepts hr (List.mem_of_find?_eq_some hq) h (List.find?_some (p := fun q => Row.accepts q w) hq)]
  · rename_i hnone
    exact absurd h (List.find?_eq_none.1 hnone r hr)

/-- A word no row accepts is refused by name (R68). -/
theorem decode_of_not_accepts {w : Word} (h : ∀ r ∈ commandTable, r.accepts w = false) :
    decode w = .error (reservedReason w) := by
  have hnone : commandTable.find? (fun r => r.accepts w) = none :=
    List.find?_eq_none.2 fun r hr => by simp [h r hr]
  rw [decode, hnone]

/-- The one row of format I. -/
def crcUpdRow : Row := ⟨0x0011, 0x00FF, fun b => .crcUpd b⟩

theorem crcUpdRow_mem : crcUpdRow ∈ commandTable := by simp [commandTable, crcUpdRow]

/-- The row of format I does not look at the immediate (R66). -/
theorem crcUpdRow_accepts {w : Word} (h : opField w = 0x11) : crcUpdRow.accepts w = true :=
  (accepts_iff_fields _ w).2 ⟨by rw [h]; rfl, BitVec.and_zero⟩

/-- The fields of every command's word are its op and its immediate, and are well formed (R66). -/
theorem encodedFields (i : Instr) : Laws.EncodedFields.Statement i := by
  cases i with
  | nop => exact Laws.EncodedFields.nop
  | clr => exact Laws.EncodedFields.clr
  | crcInit => exact Laws.EncodedFields.crcInit
  | crcUpd b => exact Laws.EncodedFields.crcUpd b
  | bldRdh => exact Laws.EncodedFields.bldRdh
  | bldRdi => exact Laws.EncodedFields.bldRdi
  | bldWsr => exact Laws.EncodedFields.bldWsr
  | bldCus => exact Laws.EncodedFields.bldCus
  | parse => exact Laws.EncodedFields.parse
  | xfer => exact Laws.EncodedFields.xfer

/-- The decoder reads every command back from its word. -/
theorem decode_encode (i : Instr) : decode (encode i) = .ok i := by
  cases i with
  | nop | clr | crcInit | bldRdh | bldRdi | bldWsr | bldCus | parse | xfer => rfl
  | crcUpd b =>
    obtain ⟨hop, himm, -⟩ := encodedFields (.crcUpd b)
    rw [decode_of_accepts crcUpdRow_mem (crcUpdRow_accepts hop), himm]
    rfl

/-- Settles O3: the decoder reads back what the encoder writes, and reads nothing else. -/
theorem decodeAndEncodeAgree : Obligations.DecodeAndEncodeAgree := by
  intro w i
  constructor
  · exact encode_of_decode
  · rintro rfl
    exact decode_encode i

/-- Settles O2: each of the words is the encoding of its command. -/
theorem decodeReadsTheTableWords : Obligations.DecodeReadsTheTableWords :=
  ⟨decode_encode .nop, decode_encode .clr, decode_encode .crcInit, decode_encode (.crcUpd 0xE8),
    decode_encode (.crcUpd 0x00), decode_encode (.crcUpd 0xFF), decode_encode .bldRdh, decode_encode .bldRdi,
    decode_encode .bldWsr, decode_encode .bldCus, decode_encode .parse, decode_encode .xfer⟩

/-! ### The reserved words (R68) -/

/-- A pair of fields is a command's exactly if the op is one of the ten and the immediate 0 where the format is Z. -/
theorem fieldsWellFormed_iff (op imm : Byte) :
    fieldsWellFormed op imm = true ↔
      op ∈ ([0x00, 0x01, 0x10, 0x11, 0x20, 0x21, 0x22, 0x23, 0x30, 0x40] : List Byte) ∧
        (op = 0x11 ∨ imm = 0x00) := by
  have hops : (0x11 :: zeroOperandOps).Perm [0x00, 0x01, 0x10, 0x11, 0x20, 0x21, 0x22, 0x23, 0x30, 0x40] := by decide
  rw [← hops.mem_iff]
  simp [fieldsWellFormed, opKnown, immAllowed]

/-- Every op of format Z has a row that matches its whole word. -/
theorem exists_row_of_zeroOperandOp :
    ∀ op ∈ zeroOperandOps, ∃ r ∈ commandTable, r.mask = 0xFFFF ∧ r.pattern = wordOf op 0x00 := by decide

/-- The words some row accepts are those whose fields are the fields of a command. -/
theorem exists_accepts_iff (w : Word) :
    (∃ r ∈ commandTable, r.accepts w = true) ↔ fieldsWellFormed (opField w) (immField w) = true := by
  constructor
  · rintro ⟨r, hr, h⟩
    obtain ⟨hop, himm, hwf⟩ := encodedFields (r.build (immField w))
    rw [encode_of_decode (decode_of_accepts hr h)] at hop himm
    rwa [Instr.wellFormed, ← hop, ← himm] at hwf
  · intro h
    obtain ⟨hknown, himm⟩ := (Bool.and_eq_true _ _).mp h
    simp only [opKnown, immAllowed, Bool.or_eq_true, beq_iff_eq, List.contains_iff_mem] at hknown himm
    by_cases hop : opField w = 0x11
    · exact ⟨crcUpdRow, crcUpdRow_mem, crcUpdRow_accepts hop⟩
    · obtain ⟨r, hr, hmask, hpattern⟩ := exists_row_of_zeroOperandOp _ (hknown.resolve_left hop)
      refine ⟨r, hr, beq_iff_eq.2 ?_⟩
      calc w &&& r.mask = w := by rw [hmask]; exact BitVec.and_allOnes
        _ = wordOf (opField w) (immField w) := (wordOf_lo_hi w).symm
        _ = r.pattern := by rw [hpattern, himm.resolve_left hop]

/-- No row accepts a word exactly if its op is none of the ten, or is of format Z with a non-zero immediate. -/
theorem not_accepts_iff (w : Word) :
    (∀ r ∈ commandTable, r.accepts w = false) ↔
      opField w ∉ ([0x00, 0x01, 0x10, 0x11, 0x20, 0x21, 0x22, 0x23, 0x30, 0x40] : List Byte) ∨
        (opField w ≠ 0x11 ∧ immField w ≠ 0x00) := by
  calc (∀ r ∈ commandTable, r.accepts w = false)
      ↔ ¬ ∃ r ∈ commandTable, r.accepts w = true := by simp
    _ ↔ _ := by rw [exists_accepts_iff, fieldsWellFormed_iff, not_and_or, not_or]

/-! ### A write of a word to CMD -/

/-- Settles O1: the host's write reaches CMD, which runs the decoded command. -/
theorem stepRunsTheDecodedCommand : Obligations.StepRunsTheDecodedCommand := by
  intro s w i hline hdec
  exact (step_writeReg hline .cmd w).trans (command_of_decode_ok hdec s)

/-- Settles O5: the reserved words are those whose fields are not a command's, and the decoder refuses them. -/
theorem reservedWordSetsErr : Obligations.ReservedWordSetsErr := by
  intro w
  refine ⟨not_accepts_iff w, fun hreserved s hline => ?_⟩
  exact (step_writeReg hline .cmd w).trans (command_of_decode_error (decode_of_not_accepts hreserved) s)

end Sys2Proof.Machine
end

section
/-! The host scripts (`30_encoding.md` R86, R87): what each line does whatever stands behind it, what WAIT does, and
what a whole script leaves, line by line. -/

namespace Sys2Proof.Machine

/-! ### The lines of a script (R86) -/

/-- Whatever lines stand behind it, the line `a` takes `s` to `t` in one host turn and leaves those lines to be run. -/
def LineRuns (a : HostOp) (s t : State) : Prop :=
  ∀ lines, step (onAccess a (onScript lines s)) = .next (onScript lines t)

/-- The lines of a script take `s` to `t` one after the other. -/
inductive ScriptRuns : List HostOp → State → State → Prop
  | nil (s : State) : ScriptRuns [] s s
  | cons {a : HostOp} {lines : List HostOp} {s t u : State} (first : LineRuns a s t) (others : ScriptRuns lines t u) :
      ScriptRuns (a :: lines) s u

theorem ScriptRuns.append {l m : List HostOp} {s t u : State} (hl : ScriptRuns l s t) (hm : ScriptRuns m t u) :
    ScriptRuns (l ++ m) s u := by
  induction hl with
  | nil => exact hm
  | cons first _ ih => exact .cons first (ih hm)

/-- A script whose lines take `s` to `t` ends in `t`, one host turn for each line. -/
theorem ScriptRuns.runSteps_eq {lines : List HostOp} {s t : State} (h : ScriptRuns lines s t) :
    runSteps lines.length (onScript lines s) = .next t := by
  induction h with
  | nil => rfl
  | cons first _ ih => exact (runSteps_succ (first _)).trans ih

/-- The list of lines still to be run does not enter what a write of a register does. -/
theorem writeIdle_onScript (r : RegName) (v : Word) (lines : List HostOp) (s : State) :
    writeIdle r v (onScript lines s) = onScript lines (writeIdle r v s) := by
  cases r with
  | plen | rxlen =>
    simp only [writeIdle]
    rw [apply_ite (onScript lines)]
    rfl
  | cmd | status | outcome | sid | fc | addr | data | txlen | esid | efc | paylen | settle | crcr | reserved => rfl

section Lines

variable {s : State} (hline : s.resetLine = false)
include hline

theorem lineRuns_lineWr (hidle : s.busy = false) {r : RegName} (hr : r ≠ .cmd) (v : Word) :
    LineRuns (lineWr r v) s (writeIdle r v s) := fun lines => by
  rw [← writeIdle_onScript]
  exact step_writeReg_idle (s := onScript lines s) hline hidle hr v

theorem lineRuns_lineRd (r : RegName) : LineRuns (lineRd r) s { s with readData := readRegister s r } := fun lines => by
  have hread : readRegister (onScript lines s) r = readRegister s r := by cases r <;> rfl
  exact step_readReg_eq (s := onScript lines s) hline hread

theorem lineRuns_lineCmd {i : Instr} {t : State}
    (h : ∀ lines, exec i (onScript lines s) = .next (onScript lines t)) : LineRuns (lineCmd i) s t := fun lines =>
  calc step (onAccess (lineCmd i) (onScript lines s))
      = command (encode i) (onScript lines s) := step_writeReg (s := onScript lines s) hline .cmd _
    _ = exec i (onScript lines s) := command_of_decode_ok (decode_encode i) _
    _ = .next (onScript lines t) := h lines

theorem lineRuns_writeBuf_paybuf (hidle : s.busy = false) {i : Nat} (hi : i < 252) (b : Byte) :
    LineRuns (.writeBuf .paybuf i b) s { s with paybuf := Memory.store s.paybuf i b } := fun lines => by
  rw [step_writeBuf (s := onScript lines s) hline hi, writeByte_idle (s := onScript lines s) (S := .paybuf) hidle nofun]
  rfl

end Lines

/-! ### WAIT (R86) -/

/-- Bit 0 of STATUS is BUSY (`10_state.md` R15). -/
theorem statusWord_getLsbD_zero (s : State) : (statusWord s).getLsbD 0 = s.busy := by
  rw [statusWord, BitVec.getLsbD_append]
  cases s.busy <;> rfl

/-- Settles O44: the read of STATUS, by its bit 0. -/
theorem waitPollsStatus : Obligations.WaitPollsStatus := by
  intro s hline
  rw [step_onAccess _ hline]
  simp only [access, statusWord_getLsbD_zero]
  cases s.busy <;> rfl

/-! ### The script CRC16 (R87) -/

theorem lineRuns_crcInit {s : State} (hline : s.resetLine = false) (hidle : s.busy = false) :
    LineRuns (lineCmd .crcInit) s { s with crcr := Config.crcInit } :=
  lineRuns_lineCmd hline fun _ => whenIdle_idle hidle

theorem lineRuns_crcUpd {s : State} (hline : s.resetLine = false) (hidle : s.busy = false) (b : Byte) :
    LineRuns (lineCmd (.crcUpd b)) s { s with crcr := crcByte s.crcr b } :=
  lineRuns_lineCmd hline fun _ => whenIdle_idle hidle

/-- The lines CRC.UPD, one for each byte, absorb the bytes into CRCR (`40_crc_unit.md` R92, R94). -/
theorem scriptRuns_crcUpds {s : State} (hline : s.resetLine = false) (hidle : s.busy = false) (bs : List Byte) :
    ScriptRuns (bs.map fun b => lineCmd (.crcUpd b)) s { s with crcr := crcFold s.crcr bs } := by
  induction bs generalizing s with
  | nil => exact .nil s
  | cons b bs ih =>
    exact .cons (lineRuns_crcUpd hline hidle b) (ih (s := { s with crcr := crcByte s.crcr b }) hline hidle)

/-- Settles O14: CRC.INIT, one CRC.UPD for each byte, and the read of CRCR, one after the other. -/
theorem crc16ScriptReadsTheCrc : Obligations.Crc16ScriptReadsTheCrc := by
  intro s bs hline hidle
  have hupds := scriptRuns_crcUpds (s := { s with crcr := Config.crcInit }) hline hidle bs
  have hread := lineRuns_lineRd (s := { s with crcr := crc16 bs }) hline .crcr
  have hscript : ScriptRuns (scriptCrc16 bs) s { s with crcr := crc16 bs, readData := crc16 bs } :=
    .cons (lineRuns_crcInit hline hidle) (hupds.append (.cons hread (.nil _)))
  have hlength : (scriptCrc16 bs).length = bs.length + 2 := by simp [scriptCrc16]
  rw [← hlength]
  exact hscript.runSteps_eq

/-! ### The BLD commands -/

/-- `s` with a frame stored: the frame in TXBUF from index 0 on, and its length in TXLEN
(`41_frame_build.md` R100 to R104). -/
def withFrame (frame : List Byte) (s : State) : State :=
  { s with txbuf := Memory.storeAll s.txbuf 0 frame, txlen := BitVec.ofNat 16 frame.length }

theorem bytesOf_withFrame (frame : List Byte) (s : State) :
    bytesOf (withFrame frame s) .txbuf 0 frame.length = frame :=
  bytesOf_storeAll (s := s) rfl

theorem byteOf_withFrame_behind {frame : List Byte} {a : Nat} (h : frame.length ≤ a) (s : State) :
    byteOf (withFrame frame s) .txbuf a = byteOf s .txbuf a :=
  byteOf_storeAll_outside (bs := frame) rfl rfl (.inr (by omega))

/-- An idle BLD command whose payload fits stores the frame of its body, and does nothing else. -/
theorem exec_build_idle {s : State} {i : Instr} (hi : IsBuild i) (hidle : s.busy = false)
    (hplen : i = .bldCus → s.plen.toNat ≤ Config.maxPay) :
    exec i s = .next (withFrame (frameOf (buildBody s i)) s) := by
  rcases hi with rfl | rfl | rfl | rfl
  case inr.inr.inr =>
    have hfits : (frameOf (buildBody s .bldCus)).length ≤ Config.maxAdu := by
      rw [frameOf_length, buildBody, List.length_cons, List.length_cons, bytesOf_length]
      exact Nat.add_le_add_right (hplen rfl) 4
    refine (whenIdle_idle hidle).trans ?_
    rw [orFault_memRead (S := .paybuf) (hplen rfl)]
    exact storeFrame_next.2 ⟨hfits, rfl⟩
  all_goals exact (whenIdle_idle hidle).trans (storeFrame_next.2 ⟨show 8 ≤ 256 by decide, rfl⟩)

theorem lineRuns_build {s : State} {i : Instr} (hline : s.resetLine = false) (hidle : s.busy = false) (hi : IsBuild i)
    (hplen : i = .bldCus → s.plen.toNat ≤ Config.maxPay) :
    LineRuns (lineCmd i) s (withFrame (frameOf (buildBody s i)) s) :=
  lineRuns_lineCmd hline fun lines => by
    rw [exec_build_idle (s := onScript lines s) hi hidle hplen]
    rcases hi with rfl | rfl | rfl | rfl <;> rfl

/-! ### The request scripts (R87) -/

theorem loByte_zeroExtend (b : Byte) : loByte (b.zeroExtend 16) = b := by
  rw [loByte, BitVec.extractLsb'_setWidth_of_le (by decide)]
  exact BitVec.extractLsb'_eq_self

section Lines

variable {s : State} (hline : s.resetLine = false) (hidle : s.busy = false)
include hline hidle

theorem lineRuns_sid (b : Byte) : LineRuns (lineWr .sid (b.zeroExtend 16)) s { s with sid := b } := by
  simpa only [writeIdle, loByte_zeroExtend] using lineRuns_lineWr hline hidle (r := .sid) nofun (b.zeroExtend 16)

theorem lineRuns_fc (b : Byte) : LineRuns (lineWr .fc (b.zeroExtend 16)) s { s with fc := b } := by
  simpa only [writeIdle, loByte_zeroExtend] using lineRuns_lineWr hline hidle (r := .fc) nofun (b.zeroExtend 16)

theorem lineRuns_addr (v : Word) : LineRuns (lineWr .addr v) s { s with addr := v } :=
  lineRuns_lineWr hline hidle (r := .addr) nofun v

theorem lineRuns_data (v : Word) : LineRuns (lineWr .data v) s { s with data := v } :=
  lineRuns_lineWr hline hidle (r := .data) nofun v

theorem lineRuns_plen {v : Word} (hv : v.toNat ≤ Config.maxPay) :
    LineRuns (lineWr .plen v) s { s with plen := v } := by
  simpa only [writeIdle, if_pos hv] using lineRuns_lineWr hline hidle (r := .plen) nofun v

end Lines

/-- A script that writes SID, ADDR and DATA and then runs one of the three BLD commands of register requests builds that
request. -/
theorem registerRequest_builds {s : State} {i : Instr} (hline : s.resetLine = false) (hidle : s.busy = false)
    (hi : i = .bldRdh ∨ i = .bldRdi ∨ i = .bldWsr) (sid : Byte) (addr data : Word) :
    ∃ t, runSteps 4 (onScript [lineWr .sid (sid.zeroExtend 16), lineWr .addr addr, lineWr .data data, lineCmd i] s) =
        .next t ∧
      t = { s with sid := sid, addr := addr, data := data, txbuf := t.txbuf, txlen := 8 } ∧
      bytesOf t .txbuf 0 8 = buildReg sid (buildCode s i) addr data ∧
      ∀ a, 8 ≤ a → byteOf t .txbuf a = byteOf s .txbuf a := by
  have hbuild : IsBuild i := by
    rcases hi with rfl | rfl | rfl <;> simp [IsBuild]
  have hcus : i ≠ .bldCus := by
    rcases hi with rfl | rfl | rfl <;> nofun
  have hbody : frameOf (buildBody { s with sid := sid, addr := addr, data := data } i) =
      buildReg sid (buildCode s i) addr data := by
    rcases hi with rfl | rfl | rfl <;> rfl
  have hlast := lineRuns_build (s := { s with sid := sid, addr := addr, data := data }) hline hidle hbuild
    (absurd · hcus)
  rw [hbody] at hlast
  have hscript := ScriptRuns.cons (lineRuns_sid hline hidle sid) <|
    .cons (lineRuns_addr (s := { s with sid := sid }) hline hidle addr) <|
    .cons (lineRuns_data (s := { s with sid := sid, addr := addr }) hline hidle data) <| .cons hlast (.nil _)
  exact ⟨_, hscript.runSteps_eq, rfl, bytesOf_withFrame _ _,
    fun a ha => byteOf_withFrame_behind (frame := buildReg sid (buildCode s i) addr data) ha _⟩

/-- Settles O21: each of the scripts is that of its BLD command, REQ.WSR with its converted value as DATA. -/
theorem registerRequestScriptsBuild : Obligations.RegisterRequestScriptsBuild := by
  intro s sid addr count hline hidle
  refine ⟨registerRequest_builds hline hidle (.inl rfl) sid addr count,
    registerRequest_builds hline hidle (.inr (.inl rfl)) sid addr count, fun value lines hlines => ?_⟩
  obtain ⟨v, hv, rfl⟩ := Option.map_eq_some_iff.1 hlines
  obtain ⟨t, hrun⟩ := registerRequest_builds hline hidle (.inr (.inr rfl)) sid addr v
  exact ⟨t, v, hv, hrun⟩

/-- The lines that write a byte sequence to PAYBUF, where it fits. -/
theorem scriptRuns_linesWb {s : State} (hline : s.resetLine = false) (hidle : s.busy = false) {i : Nat}
    {bs : List Byte} (hfits : i + bs.length ≤ 252) :
    ScriptRuns (linesWb .paybuf i bs) s { s with paybuf := Memory.storeAll s.paybuf i bs } := by
  induction bs generalizing s i with
  | nil => exact .nil s
  | cons b bs ih =>
    rw [List.length_cons] at hfits
    exact .cons (lineRuns_writeBuf_paybuf hline hidle (by omega) b)
      (ih (s := { s with paybuf := Memory.store s.paybuf i b }) hline hidle (by omega))

/-- The operands of a custom request, as the script REQ.CUS leaves them before its command. -/
def withCustomOperands (sid fc : Byte) (payload : List Byte) (s : State) : State :=
  { s with
    sid := sid, fc := fc, paybuf := Memory.storeAll s.paybuf 0 payload, plen := BitVec.ofNat 16 payload.length }

/-- What BLD.CUS builds from the operands the script leaves. -/
theorem buildBody_withCustomOperands (sid fc : Byte) {payload : List Byte} (h : payload.length ≤ 252) (s : State) :
    buildBody (withCustomOperands sid fc payload s) .bldCus = sid :: fc :: payload := by
  have hplen : (withCustomOperands sid fc payload s).plen.toNat = payload.length := toNat_ofNat_length (by omega)
  have hbytes : bytesOf (withCustomOperands sid fc payload s) .paybuf 0 payload.length = payload :=
    bytesOf_storeAll (s := s) rfl
  rw [buildBody, hplen, hbytes]
  rfl

theorem scriptRuns_scriptReqCus {s : State} (hline : s.resetLine = false) (hidle : s.busy = false) (sid fc : Byte)
    {payload : List Byte} (h : payload.length ≤ 252) :
    ScriptRuns (scriptReqCus sid fc payload) s
      (withFrame (buildCustom sid fc payload) (withCustomOperands sid fc payload s)) := by
  have hplen : (BitVec.ofNat 16 payload.length).toNat ≤ Config.maxPay := (toNat_ofNat_length (by omega)).trans_le h
  have hlast := lineRuns_build (s := withCustomOperands sid fc payload s) (i := .bldCus) hline hidle
    (.inr (.inr (.inr rfl))) fun _ => hplen
  rw [buildBody_withCustomOperands sid fc h] at hlast
  have hheader := ScriptRuns.cons (lineRuns_sid hline hidle sid) <|
    .cons (lineRuns_fc (s := { s with sid := sid }) hline hidle fc) <| .nil _
  have hpayload := scriptRuns_linesWb (s := { s with sid := sid, fc := fc }) hline hidle (i := 0) (bs := payload)
    (by omega)
  have hcommand := ScriptRuns.cons
    (lineRuns_plen
      (s := { s with sid := sid, fc := fc, paybuf := Memory.storeAll s.paybuf 0 payload }) hline hidle hplen) <|
    .cons hlast (.nil _)
  exact (hheader.append hpayload).append hcommand

theorem linesWb_length (S : Buffer) (i : Nat) (bs : List Byte) : (linesWb S i bs).length = bs.length := by
  induction bs generalizing i with
  | nil => rfl
  | cons b bs ih => rw [linesWb, List.length_cons, List.length_cons, ih]

/-- Settles O22: SID, FC, the payload byte by byte, PLEN, and BLD.CUS on what these left. -/
theorem customRequestScriptBuilds : Obligations.CustomRequestScriptBuilds := by
  intro s sid fc payload hline hidle hlen
  have hlines : (scriptReqCus sid fc payload).length = payload.length + 4 := by
    simp [scriptReqCus, linesWb_length]
  have hframe : (buildCustom sid fc payload).length = payload.length + 4 := by simp [buildCustom]
  refine ⟨withFrame (buildCustom sid fc payload) (withCustomOperands sid fc payload s), ?run, ?frame,
    bytesOf_storeAll (s := s) rfl, fun a ha => ?payloadBehind, ?built, fun a ha => ?frameBehind⟩
  case run =>
    rw [← hlines]
    exact (scriptRuns_scriptReqCus hline hidle sid fc hlen).runSteps_eq
  case frame =>
    rw [← hframe]
    rfl
  case payloadBehind =>
    exact byteOf_storeAll_outside (s := s) (bs := payload) rfl rfl (.inr (by omega))
  case built =>
    rw [← hframe]
    exact bytesOf_withFrame _ _
  case frameBehind =>
    exact byteOf_withFrame_behind (frame := buildCustom sid fc payload) (hframe.trans_le ha) _

/-! ### The conversion of REQ.WSR (R78) -/

/-- Settles O23: by the two ranges of R78, and outside both. -/
theorem to16IsTwosComplement : Obligations.To16IsTwosComplement := by
  intro v
  constructor
  · rintro ⟨hmin, hmax⟩
    by_cases hpos : 0 ≤ v
    · refine ⟨BitVec.ofNat 16 v.toNat, if_pos ⟨hpos, hmax⟩, ?_⟩
      rw [if_pos hpos, BitVec.toNat_ofNat]
      omega
    · refine ⟨BitVec.ofNat 16 (v + 65536).toNat, ?_, ?_⟩
      · rw [to16, if_neg (by omega), if_pos (by omega)]
      · rw [if_neg hpos, BitVec.toNat_ofNat]
        omega
  · intro hout
    have hnone : to16 v = none := by
      rw [to16, if_neg (by omega), if_neg (by omega)]
    exact ⟨hnone, fun sid addr => by rw [scriptReqWsr, hnone, Option.map_none]⟩

end Sys2Proof.Machine
end

section
/-! The CRC unit (`40_crc_unit.md`): the shift step bit by bit, what it does to an XOR, what a byte and a byte sequence
do to the CRC, and which frames the parser's CRC check (`42_frame_parse.md` R110) stops. -/

namespace Sys2Proof.Machine

/-! ### The shift step (R90) -/

theorem crcPoly_getLsbD : ∀ i < 16, Config.crcPoly.getLsbD i = (i == 15 || i == 13 || i == 0) := by decide

/-- Bit 0 drives the feedback; every other bit moves down by one. -/
theorem crcBit_getLsbD (c : Word) {i : Nat} (hi : i < 16) :
    (crcBit c).getLsbD i =
      ((i != 15 && c.getLsbD (i + 1)) ^^ (c.getLsbD 0 && (i == 15 || i == 13 || i == 0))) := by
  have hshift : (c >>> 1).getLsbD i = (i != 15 && c.getLsbD (i + 1)) := by
    rw [BitVec.getLsbD_ushiftRight, Nat.add_comm]
    by_cases h : i = 15
    · rw [h, BitVec.getLsbD_of_ge c 16 le_rfl]
      rfl
    · simp [h]
  rw [← hshift, ← crcPoly_getLsbD i hi]
  unfold crcBit
  split
  case isTrue h => rw [h, BitVec.getLsbD_xor, Bool.true_and]
  case isFalse h => rw [Bool.eq_false_iff.2 h, Bool.false_and, Bool.xor_false]

theorem crcBit_getLsbD_last (c : Word) : (crcBit c).getLsbD 15 = c.getLsbD 0 := by
  rw [crcBit_getLsbD c (by decide)]
  simp

/-- With bit 0 clear the step is a shift alone. -/
theorem crcBit_of_getLsbD_zero {c : Word} (h : c.getLsbD 0 = false) : crcBit c = c >>> 1 :=
  if_neg (by rw [h]; decide)

theorem crcBit_zero : crcBit 0 = 0 := rfl

/-- The shift step is linear: a shift is, and the feedback of an XOR is the XOR of the feedbacks. -/
theorem crcBit_xor (c d : Word) : crcBit (c ^^^ d) = crcBit c ^^^ crcBit d := by
  refine BitVec.eq_of_getLsbD_eq fun i hi => ?_
  simp only [BitVec.getLsbD_xor, crcBit_getLsbD _ hi, Bool.and_xor_distrib_left, Bool.and_xor_distrib_right,
    Bool.xor_assoc, Bool.xor_left_comm]

/-- Bit 15 of the result is the old bit 0, and once that is known the others can be read off. -/
theorem crcBit_injective : Function.Injective crcBit := by
  intro c d h
  have hbit (i : Nat) (hi : i < 16) : (crcBit c).getLsbD i = (crcBit d).getLsbD i := by rw [h]
  have hzero : c.getLsbD 0 = d.getLsbD 0 := by
    simpa only [crcBit_getLsbD_last] using hbit 15 (by decide)
  refine BitVec.eq_of_getLsbD_eq fun i hi => ?_
  cases i with
  | zero => exact hzero
  | succ i =>
    have hnext := hbit i (by omega)
    rw [crcBit_getLsbD c (by omega), crcBit_getLsbD d (by omega), hzero, Bool.xor_left_inj] at hnext
    have hlast : (i != 15) = true := bne_iff_ne.2 (by omega)
    rwa [hlast, Bool.true_and, Bool.true_and] at hnext

/-! ### Several shift steps -/

theorem crcBits_add (m n : Nat) (c : Word) : crcBits (m + n) c = crcBits n (crcBits m c) := by
  induction m generalizing c with
  | zero => rw [Nat.zero_add, crcBits]
  | succ m ih => rw [Nat.succ_add, crcBits, crcBits, ih]

theorem crcBits_zero (n : Nat) : crcBits n 0 = 0 := by
  induction n with
  | zero => rfl
  | succ n ih => rw [crcBits, crcBit_zero, ih]

theorem crcBits_xor (n : Nat) (c d : Word) : crcBits n (c ^^^ d) = crcBits n c ^^^ crcBits n d := by
  induction n generalizing c d with
  | zero => rfl
  | succ n ih => rw [crcBits, crcBit_xor, ih]; rfl

theorem crcBits_injective (n : Nat) : Function.Injective (crcBits n) := by
  induction n with
  | zero => exact Function.injective_id
  | succ n ih => exact ih.comp crcBit_injective

theorem crcBits_eq_zero_iff {n : Nat} {c : Word} : crcBits n c = 0 ↔ c = 0 :=
  (crcBits_injective n).eq_iff' (crcBits_zero n)

/-- A byte that stands above the bits shifted out is only moved down. -/
theorem crcBits_shiftLeft_byte (b : Byte) {n : Nat} (hn : n ≤ 8) :
    crcBits n (b.zeroExtend 16 <<< n) = b.zeroExtend 16 := by
  induction n with
  | zero => exact BitVec.shiftLeft_zero _
  | succ n ih =>
    have hzero : (b.zeroExtend 16 <<< (n + 1)).getLsbD 0 = false := by simp
    have hshift : (b.zeroExtend 16 <<< (n + 1)) >>> 1 = b.zeroExtend 16 <<< n := by
      refine BitVec.eq_of_getLsbD_eq fun i hi => ?_
      by_cases hlast : i = 15
      · simp [hlast, BitVec.getLsbD_of_ge b (15 - n) (by omega)]
      · simp [show i + 1 < 16 by omega, hi, Nat.add_comm 1 i]
    rw [crcBits, crcBit_of_getLsbD_zero hzero, hshift, ih (by omega)]

/-! ### Absorbing a byte (R91) -/

theorem crcByte_injective_left (b : Byte) : Function.Injective fun c => crcByte c b :=
  fun _ _ h => (BitVec.xor_left_inj _).1 (crcBits_injective 8 h)

theorem zeroExtend_injective : Function.Injective fun b : Byte => b.zeroExtend 16 :=
  Function.LeftInverse.injective loByte_zeroExtend

theorem crcByte_injective_right (c : Word) : Function.Injective (crcByte c) :=
  fun _ _ h => zeroExtend_injective ((BitVec.xor_right_inj _).1 (crcBits_injective 8 h))

theorem crcByte_zero_right (d : Word) : crcByte d 0 = crcBits 8 d := congrArg (crcBits 8) BitVec.xor_zero

theorem crcByte_xor (c d : Word) (b : Byte) : crcByte (c ^^^ d) b = crcByte c b ^^^ crcByte d 0 :=
  calc crcByte (c ^^^ d) b
      = crcBits 8 ((c ^^^ b.zeroExtend 16) ^^^ d) := congrArg (crcBits 8) (by ac_rfl)
    _ = crcByte c b ^^^ crcByte d 0 := by rw [crcBits_xor, crcByte_zero_right, crcByte]

/-! ### Absorbing a byte sequence (R92) -/

theorem crc16_append (bs cs : List Byte) : crc16 (bs ++ cs) = crcFold (crc16 bs) cs := List.foldl_append

theorem crcFold_injective (bs : List Byte) : Function.Injective fun c => crcFold c bs := by
  induction bs with
  | nil => exact Function.injective_id
  | cons b bs ih => exact ih.comp (crcByte_injective_left b)

/-- For a fixed rest the CRC is injective in each byte position (R97 (c)). -/
theorem crc16_injective_at (before behind : List Byte) : Function.Injective fun b => crc16 (before ++ b :: behind) := by
  intro a b h
  have hfold : crcFold (crcByte (crc16 before) a) behind = crcFold (crcByte (crc16 before) b) behind := by
    simpa only [crc16_append, crcFold, List.foldl_cons] using h
  exact crcByte_injective_right _ (crcFold_injective behind hfold)

theorem crc16_set_ne {body : List Byte} {i : Nat} (hi : i < body.length) {b : Byte} (hb : b ≠ body[i]) :
    crc16 (body.set i b) ≠ crc16 body := by
  have hset : body.set i b = body.take i ++ b :: body.drop (i + 1) := by
    rw [List.set_eq_take_append_cons_drop, if_pos hi]
  have hbody : body.take i ++ body[i] :: body.drop (i + 1) = body := by
    rw [List.cons_getElem_drop_succ, List.take_append_drop]
  have hne := (crc16_injective_at (body.take i) (body.drop (i + 1))).ne hb
  simpa only [hset, hbody] using hne

/-- Settles O10: the shift step bit by bit, the rest by the definitions of crc_byte and crc16. -/
theorem crcIsTheShiftRegister : Obligations.CrcIsTheShiftRegister := by
  refine ⟨fun c i hi => crcBit_getLsbD c hi, fun c b => ⟨c ^^^ b.zeroExtend 16, fun i hi => ?_, rfl⟩, rfl,
    fun bs b => crc16_append bs [b]⟩
  simp [hi]

/-- Settles O11: the shift step is injective on finitely many words, and linear; eight of them keep both. -/
theorem crcArithmeticLaws : Obligations.CrcArithmeticLaws :=
  ⟨crc16_append, fun _ _ _ _ => congrArg (crcBits 8), crcBit_injective.bijective_of_finite,
    fun b => (crcByte_injective_left b).bijective_of_finite, crcByte_xor⟩

/-! ### The commands CRC.INIT and CRC.UPD (R93, R94) -/

/-- Settles O8: the decoder reads back the word of CRC.INIT, and the command asks for BUSY first. -/
theorem crcInitSetsCrcr : Obligations.CrcInitSetsCrcr :=
  ⟨decode_encode .crcInit, fun _ => ⟨whenIdle_idle, whenIdle_busy⟩⟩

/-- Settles O9: the decoder reads back the word of CRC.UPD for every byte, and the command asks for BUSY first. -/
theorem crcUpdAbsorbsItsByte : Obligations.CrcUpdAbsorbsItsByte :=
  ⟨by decide, fun b => ⟨decode_encode (.crcUpd b), fun _ => ⟨whenIdle_idle, whenIdle_busy⟩⟩⟩

/-! ### The residue (R97 (a)) -/

/-- The two bytes of a word do not overlap. -/
theorem wordOf_eq_xor (lo hi : Byte) : wordOf lo hi = lo.zeroExtend 16 ^^^ (hi.zeroExtend 16 <<< 8) := by
  refine BitVec.eq_of_getLsbD_eq fun i hi => ?_
  rw [wordOf, BitVec.getLsbD_or, BitVec.getLsbD_xor]
  by_cases h : i < 8
  · simp [h]
  · simp [BitVec.getLsbD_of_ge lo i (by omega)]

/-- Two bytes enter the CRC as one word, low byte first: the high byte waits while the low byte is shifted out. -/
theorem crcByte_crcByte (c : Word) (lo hi : Byte) :
    crcByte (crcByte c lo) hi = crcBits 16 (c ^^^ wordOf lo hi) :=
  calc crcByte (crcByte c lo) hi
      = crcBits 8 (crcBits 8 (c ^^^ lo.zeroExtend 16) ^^^ crcBits 8 (hi.zeroExtend 16 <<< 8)) := by
        rw [crcBits_shiftLeft_byte hi le_rfl]; rfl
    _ = crcBits 16 (c ^^^ wordOf lo hi) := by
        rw [← crcBits_xor, ← crcBits_add, BitVec.xor_assoc, wordOf_eq_xor]

/-- Settles O12: the residue is sixteen shift steps of the CRC XORed with the two bytes, and they lead from 0 alone
to 0. -/
theorem crcResidueIsZeroExactlyOnFrames : Obligations.CrcResidueIsZeroExactlyOnFrames := by
  intro body lo hi
  calc crc16 (body ++ [lo, hi]) = 0
      ↔ crcBits 16 (crc16 body ^^^ wordOf lo hi) = 0 := by rw [← crcByte_crcByte, crc16_append]; rfl
    _ ↔ crc16 body = wordOf lo hi := by rw [crcBits_eq_zero_iff]; exact BitVec.xor_eq_zero_iff
    _ ↔ wordOf lo hi = crc16 body := eq_comm

/-! ### The CRC check of the parser (`42_frame_parse.md` R110) -/

/-- A frame of four bytes or more whose last two are not the CRC of the others is answered before its header is
looked at. -/
theorem parse_eq_crcMismatch (esid efc : Byte) {body : List Byte} {lo hi : Byte} (hlen : 2 ≤ body.length)
    (hcrc : wordOf lo hi ≠ crc16 body) : parse esid efc (body ++ [lo, hi]) = (.crcMismatch, 0, 0) := by
  have hlength : (body ++ [lo, hi]).length = body.length + 2 := by simp
  have hlong : ¬ (body ++ [lo, hi]).length < Config.minFrame := by
    rw [hlength]
    exact Nat.not_lt.2 (Nat.add_le_add_right hlen 2)
  unfold parse
  rw [if_neg (by omega), dif_neg hlong]
  exact if_pos (by simpa using hcrc)

theorem xor_bit_ne {w k : Nat} (hk : k < w) (x : BitVec w) : x ^^^ ((1 : BitVec w) <<< k) ≠ x := by
  intro h
  have hbit : (x ^^^ ((1 : BitVec w) <<< k)).getLsbD k = x.getLsbD k := by rw [h]
  simp [hk] at hbit

/-- Settles O13: a changed bit of the CRC bytes changes the CRC received, one of the body the CRC recomputed. -/
theorem everySingleBitErrorIsCrcMismatch : Obligations.EverySingleBitErrorIsCrcMismatch := by
  refine ⟨fun esid efc body k hlen hk => ?crc, fun esid efc body i k hi hlen hk => ?body⟩
  case crc =>
    refine parse_eq_crcMismatch esid efc hlen ?_
    rw [wordOf_lo_hi]
    exact xor_bit_ne hk _
  case body =>
    refine parse_eq_crcMismatch esid efc (by rwa [List.length_set]) ?_
    rw [wordOf_lo_hi]
    exact (crc16_set_ne hi (xor_bit_ne hk _)).symm

end Sys2Proof.Machine
end

section
/-! The frame builder (`41_frame_build.md`): what each BLD command leaves in TXBUF and TXLEN (R101 to R104), and how the
parser answers the frame it built (R105). -/

namespace Sys2Proof.Machine

/-! ### The parser on a header, a middle and two CRC bytes (`42_frame_parse.md` R110) -/

theorem and_excBit_ne_zero_iff (fc : Byte) : fc &&& Config.excBit ≠ 0 ↔ fc.getLsbD 7 = true := by
  rw [show Config.excBit = BitVec.twoPow 8 7 from rfl, BitVec.and_twoPow]
  cases fc.getLsbD 7 <;> decide

/-- On a sequence of at least four bytes the checks from the CRC on, in their order. -/
theorem parse_eq_ite (esid efc id fc : Byte) (mid : List Byte) (lo hi : Byte) :
    parse esid efc (id :: fc :: (mid ++ [lo, hi])) =
      if wordOf lo hi ≠ crc16 (id :: fc :: mid) then (.crcMismatch, 0, 0)
      else if id ≠ esid then (.slaveIdMismatch, 0, 0)
      else if fc.getLsbD 7 = true then (.driverException, mid.headD lo, 0)
      else if fc ≠ efc then (.functionCodeMismatch, 0, 0)
      else (.payload, 0, mid.length) := by
  have hlong : ¬ (id :: fc :: (mid ++ [lo, hi])).length < Config.minFrame := by simp [Config.minFrame]
  have hthird : (id :: fc :: (mid ++ [lo, hi]))[2]'(by simp) = mid.headD lo := by cases mid <;> rfl
  unfold parse
  rw [if_neg (by simp), dif_neg hlong]
  -- Bit 7 is read off the mask first: `simp` would evaluate the mask.
  simp only [hthird, and_excBit_ne_zero_iff]
  simp

/-- A frame that carries the expected header and its own CRC is read as Payload, if bit 7 of its function code is
clear. -/
theorem parse_frameOf (id fc : Byte) (payload : List Byte) (h : fc.getLsbD 7 = false) :
    parse id fc (frameOf (id :: fc :: payload)) = (.payload, 0, payload.length) := by
  calc parse id fc (frameOf (id :: fc :: payload))
      = parse id fc (id :: fc :: (payload ++ littleEndian (crc16 (id :: fc :: payload)))) := rfl
    _ = (.payload, 0, payload.length) := by
        rw [littleEndian, parse_eq_ite, if_neg (not_not.2 (wordOf_lo_hi _)), if_neg (not_not.2 rfl),
          if_neg (ne_true_of_eq_false h), if_neg (not_not.2 rfl)]

/-! ### A stored frame -/

theorem byteOf_withFrame {frame : List Byte} {k : Nat} (h : k < frame.length) (s : State) :
    byteOf (withFrame frame s) .txbuf k = frame[k] := by
  have hread := bytesOf_getElem (withFrame frame s) .txbuf 0 frame.length k h
  simpa [bytesOf_withFrame] using hread.symm

/-! A frame with a header, where it fits TXBUF: the length, the first and the second byte left. -/

theorem txlen_withFrame_header (id fc : Byte) {payload : List Byte} (h : payload.length ≤ 252) (s : State) :
    (withFrame (frameOf (id :: fc :: payload)) s).txlen.toNat = (frameOf (id :: fc :: payload)).length :=
  toNat_ofNat_length (by simp only [frameOf_length, List.length_cons]; omega)

theorem byteOf_withFrame_header_zero (id fc : Byte) (payload : List Byte) (s : State) :
    byteOf (withFrame (frameOf (id :: fc :: payload)) s) .txbuf 0 = id := byteOf_withFrame (by simp) s

theorem byteOf_withFrame_header_one (id fc : Byte) (payload : List Byte) (s : State) :
    byteOf (withFrame (frameOf (id :: fc :: payload)) s) .txbuf 1 = fc := byteOf_withFrame (by simp) s

/-! ### What the BLD commands build -/

/-- The body of a request is its header, SID and the command's function code, and at most 252 bytes behind it. -/
theorem buildBody_eq_header {s : State} {i : Instr} (hi : IsBuild i) (hplen : s.plen.toNat ≤ 252) :
    ∃ payload, buildBody s i = s.sid :: buildCode s i :: payload ∧ payload.length ≤ 252 := by
  rcases hi with rfl | rfl | rfl | rfl
  case inr.inr.inr => exact ⟨_, rfl, by rwa [bytesOf_length]⟩
  all_goals exact ⟨_, rfl, show 4 ≤ 252 by decide⟩

theorem buildsFrame_of_idle {s : State} {i : Instr} (hi : IsBuild i) (hidle : s.busy = false)
    (hplen : i = .bldCus → s.plen.toNat ≤ Config.maxPay) : BuildsFrame i s (frameOf (buildBody s i)) :=
  ⟨withFrame (frameOf (buildBody s i)) s, exec_build_idle hi hidle hplen, rfl, bytesOf_withFrame _ s,
    fun _ ha => byteOf_withFrame_behind ha s⟩

/-- Settles O20: the frame stored is a header with a payload and its CRC behind it. -/
theorem builtFrameIsValidAndParses : Obligations.BuiltFrameIsValidAndParses := by
  intro s i hidle hplen hi
  obtain ⟨payload, hbody, hlen⟩ := buildBody_eq_header hi hplen
  have hexec := exec_build_idle hi hidle fun _ => hplen
  rw [hbody] at hexec
  refine ⟨_, hexec, ?valid, byteOf_withFrame_header_zero .., byteOf_withFrame_header_one .., fun hbit => ?parses⟩
  case valid =>
    rw [txlen_withFrame_header _ _ hlen, bytesOf_withFrame]
    exact validFrame_frameOf (by simp)
  case parses =>
    rw [byteOf_withFrame_header_zero, byteOf_withFrame_header_one, txlen_withFrame_header _ _ hlen, bytesOf_withFrame,
      parse_frameOf _ _ _ hbit]
    simp

/-- A BLD command of a register request uses no PLEN: it builds its request while idle and sets ERR alone while BUSY. -/
theorem registerCommand_spec {i : Instr} (hi : IsBuild i) (hcus : i ≠ .bldCus) (s : State) :
    (s.busy = false → BuildsFrame i s (frameOf (buildBody s i))) ∧
      (s.busy = true → exec i s = .next { s with err := true }) :=
  ⟨fun hidle => buildsFrame_of_idle hi hidle (absurd · hcus), fun hbusy =>
    exec_of_busy hbusy (by rintro rfl; simp [IsBuild] at hi)⟩

/-- Settles O16: the body of BLD.RDH is its six bytes, high byte of each field first. -/
theorem bldRdhBuildsReadRequest : Obligations.BldRdhBuildsReadRequest :=
  ⟨decode_encode .bldRdh, registerCommand_spec (.inl rfl) nofun⟩

/-- Settles O17: as BLD.RDH, with the other read code. -/
theorem bldRdiBuildsReadRequest : Obligations.BldRdiBuildsReadRequest :=
  ⟨decode_encode .bldRdi, registerCommand_spec (.inr (.inl rfl)) nofun⟩

/-- Settles O18: as BLD.RDH, with the code of a single write. -/
theorem bldWsrBuildsWriteRequest : Obligations.BldWsrBuildsWriteRequest :=
  ⟨decode_encode .bldWsr, registerCommand_spec (.inr (.inr (.inl rfl))) nofun⟩

/-- Settles O19: the one BLD command whose frame fits TXBUF by the bound on PLEN. -/
theorem bldCusBuildsCustomRequest : Obligations.BldCusBuildsCustomRequest :=
  ⟨decode_encode .bldCus, fun _ =>
    ⟨fun hidle hplen => buildsFrame_of_idle (.inr (.inr (.inr rfl))) hidle fun _ => hplen,
      fun hbusy => exec_of_busy hbusy nofun⟩⟩

end Sys2Proof.Machine
end

section
/-! The frame parser (`42_frame_parse.md`): its checks on every length (R110), a response that echoes the expected
header (R118), and the command PARSE (R111). -/

namespace Sys2Proof.Machine

/-! ### Sequences shorter than the shortest frame (R110) -/

theorem parse_nil (esid efc : Byte) : parse esid efc [] = (.emptyResponse, 0, 0) := rfl

theorem parse_eq_malformed (esid efc : Byte) {raw : List Byte} (hpos : 1 ≤ raw.length) (hshort : raw.length ≤ 3) :
    parse esid efc raw = (.malformed, 0, 0) := by
  have hlt : raw.length < Config.minFrame := Nat.lt_succ_of_le hshort
  rw [parse, if_neg (Nat.ne_of_gt hpos), dif_pos hlt]

/-- Settles O24: the two checks of the length decide below four bytes, the checks from the CRC on otherwise. -/
theorem parseChecksInOrder : Obligations.ParseChecksInOrder := fun esid efc =>
  ⟨parse_nil esid efc, fun _ => parse_eq_malformed esid efc, parse_eq_ite esid efc⟩

/-- Settles O25: such a response passes every check. -/
theorem echoParsesAsPayload : Obligations.EchoParsesAsPayload := parse_frameOf

/-! ### The command PARSE (R111) -/

/-- While idle PARSE records what the parser answers on RXBUF[0 .. RXLEN], which lies within RXBUF. -/
theorem exec_parse_idle {s : State} (hidle : s.busy = false) (hrxlen : s.rxlen.toNat ≤ Config.maxAdu) :
    exec .parse s = .next (recordOutcome (parse s.esid s.efc (bytesOf s .rxbuf 0 s.rxlen.toNat)) s) := by
  refine (whenIdle_idle hidle).trans ?_
  rw [orFault_memRead (S := .rxbuf) hrxlen]
  rfl

/-- Settles O26: the decoder reads back the word of PARSE, and the command asks for BUSY first. -/
theorem parseRecordsTheOutcome : Obligations.ParseRecordsTheOutcome := by
  refine ⟨decode_encode .parse, fun s => ⟨fun hidle hrxlen k e p hparse => ?idle, fun hbusy => ?busy⟩⟩
  case idle =>
    rw [exec_parse_idle hidle hrxlen, hparse]
    rfl
  case busy => exact exec_of_busy hbusy nofun

end Sys2Proof.Machine
end

section
/-! The transaction coordinator (`43_transaction.md`): the acceptance of XFER (R121) and what each phase step of the
engine does, said once (R122 to R127); what no step changes while a transaction runs (R134); the bound on the steps it
still needs (R132); and one whole transaction, turn by turn. -/

namespace Sys2Proof.Machine

/-! ### The acceptance of XFER (R121) -/

theorem exec_xfer_unbuilt {s : State} (hidle : s.busy = false) (hnone : s.txlen = 0) :
    exec .xfer s = .next (raiseErr s) :=
  (whenIdle_idle hidle).trans (if_pos hnone)

theorem exec_xfer_built {s : State} (hidle : s.busy = false) (hframe : s.txlen ≠ 0) :
    exec .xfer s = .next (acceptXfer s) :=
  (whenIdle_idle hidle).trans (if_neg hframe)

/-- Settles O27: the decoder reads back the word of XFER, and the command asks for BUSY first, then for a frame. -/
theorem xferAcceptance : Obligations.XferAcceptance :=
  ⟨decode_encode .xfer, fun _ => ⟨fun hbusy => exec_of_busy hbusy nofun, exec_xfer_unbuilt, exec_xfer_built⟩⟩

/-! ### The phase steps (R122 to R127) -/

theorem ifOpen_open {s : State} {k : Result} (hopen : s.chOpen = true) : ifOpen s k = k := if_pos hopen

theorem ifOpen_closed {s : State} {k : Result} (hclosed : s.chOpen = false) :
    ifOpen s k = .next (finish .channelNotOpen 0 0 s) := if_neg (by simp [hclosed])

/-! What FLUSH, SEND and READ leave on the open channel, each as one update of the state. -/

/-- CHIN emptied (R122). -/
def afterFlush (s : State) : State := { s with chin := [], phase := .send }

/-- The frame TXBUF[0 .. TXLEN] once more in WIRE, and SCNT loaded (R123). -/
def afterSend (s : State) : State :=
  { s with wire := s.wire ++ [bytesOf s .txbuf 0 s.txlen.toNat], scnt := s.settle, phase := .settle }

/-- The first 256 bytes of CHIN moved to RXBUF, and their number in RXLEN (R125). -/
def afterRead (s : State) : State :=
  { s with
    rxbuf := Memory.storeAll s.rxbuf 0 (s.chin.take 256)
    rxlen := BitVec.ofNat 16 (min 256 s.chin.length)
    chin := s.chin.drop 256
    phase := .parse }

section PhaseSteps

variable {s : State}

theorem engineTurn_flush (hphase : s.phase = .flush) : engineTurn s = ifOpen s (.next (afterFlush s)) := by
  rw [engineTurn, hphase]
  rfl

theorem engineTurn_send (hphase : s.phase = .send) (htxlen : s.txlen.toNat ≤ 256) :
    engineTurn s = ifOpen s (.next (afterSend s)) := by
  rw [engineTurn, hphase]
  dsimp only [sendStep]
  rw [orFault_memRead (S := .txbuf) htxlen]
  rfl

theorem engineTurn_settle (hphase : s.phase = .settle) :
    engineTurn s = if s.scnt = 0 then .next { s with phase := .read } else .next s := by
  rw [engineTurn, hphase]
  rfl

/-- What READ takes never exceeds RXBUF, so that it cannot fault. -/
theorem engineTurn_read (hphase : s.phase = .read) : engineTurn s = ifOpen s (.next (afterRead s)) := by
  have hfits : 0 + (s.chin.take 256).length ≤ Config.capacity .rxbuf := by
    rw [Nat.zero_add]
    exact List.length_take_le 256 s.chin
  rw [engineTurn, hphase]
  dsimp only [readStep, chRead]
  rw [memWrite_fits hfits, List.length_take]
  rfl

theorem engineTurn_parse (hphase : s.phase = .parse) (hrxlen : s.rxlen.toNat ≤ 256) {r : Kind × Byte × Nat}
    (hr : parse s.esid s.efc (bytesOf s .rxbuf 0 s.rxlen.toNat) = r) :
    engineTurn s = .next (finish r.1 r.2.1 (BitVec.ofNat 16 r.2.2) s) := by
  rw [engineTurn, hphase]
  dsimp only [parseStep]
  rw [orFault_memRead (S := .rxbuf) hrxlen, hr]

end PhaseSteps

theorem bytesOf_afterRead (s : State) : bytesOf (afterRead s) .rxbuf 0 (min 256 s.chin.length) = s.chin.take 256 := by
  rw [← List.length_take]
  exact bytesOf_storeAll (s := s) rfl

theorem byteOf_afterRead_behind {s : State} {a : Nat} (h : min 256 s.chin.length ≤ a) :
    byteOf (afterRead s) .rxbuf a = byteOf s .rxbuf a := by
  rw [← List.length_take] at h
  exact byteOf_storeAll_outside (s := s) rfl rfl (.inr (by omega))

theorem toNat_rxlen_afterRead (s : State) : (afterRead s).rxlen.toNat = min 256 s.chin.length := by
  have hmin : min 256 s.chin.length ≤ 256 := Nat.min_le_left _ _
  rw [afterRead, BitVec.toNat_ofNat]
  omega

/-- Settles O28: the engine's turn in FLUSH, by the level of the channel. -/
theorem flushStepDiscardsChin : Obligations.FlushStepDiscardsChin := fun _ hline hphase =>
  (step_onTurn _ hline).trans (engineTurn_flush hphase)

/-- Settles O29: the engine's turn in SEND, whose frame lies within TXBUF. -/
theorem sendStepWritesTheFrame : Obligations.SendStepWritesTheFrame := fun _ hline hphase htxlen =>
  (step_onTurn _ hline).trans (engineTurn_send hphase htxlen)

/-- Settles O30: the engine's turn in SETTLE, which asks for SCNT alone. -/
theorem settleStepWaitsForScnt : Obligations.SettleStepWaitsForScnt := fun _ hline hphase =>
  (step_onTurn _ hline).trans (engineTurn_settle hphase)

/-- Settles O31: what READ stores reads back, and the bytes behind it read as before. -/
theorem readStepTakesWhatIsAvailable : Obligations.ReadStepTakesWhatIsAvailable := by
  intro s hline hphase
  rw [step_onTurn _ hline]
  have hstep : takeTurn .engine s = ifOpen s (.next (afterRead s)) := engineTurn_read hphase
  refine ⟨fun hopen => ?taken, fun hclosed => hstep.trans (ifOpen_closed hclosed)⟩
  case taken =>
    exact ⟨_, hstep.trans (ifOpen_open hopen), rfl, bytesOf_afterRead s, fun _ => byteOf_afterRead_behind⟩

/-- Settles O32: the engine's turn in PARSE, whose response lies within RXBUF. -/
theorem parseStepCompletes : Obligations.ParseStepCompletes := fun _ _ _ _ hline hphase hrxlen hparse =>
  (step_onTurn _ hline).trans (engineTurn_parse hphase hrxlen hparse)

/-! ### What a running transaction keeps (R134) -/

/-- Settles O58: of the effects a busy engine allows none names an operand, and one names ERR, to set it. -/
theorem runningTransactionKeepsItsOperands : Obligations.RunningTransactionKeepsItsOperands := by
  intro s t hbusy hreset h
  cases step_effect h hreset with
  | passed | appended | levelSet | ticked | foundClosed | flushed | sent | settled | received | completed =>
    exact ⟨rfl, rfl, rfl, rfl, rfl, rfl, rfl, rfl, rfl, rfl, rfl, rfl, id⟩
  | erred => exact ⟨rfl, rfl, rfl, rfl, rfl, rfl, rfl, rfl, rfl, rfl, rfl, rfl, fun _ => rfl⟩
  | _ => exact absurd (‹s.busy = false›.symm.trans hbusy) nofun

/-! ### The bound on the steps a transaction needs (R132) -/

theorem toNat_sub_one_add_one {c : Word} (h : c ≠ 0) : (c - 1).toNat + 1 = c.toNat := by
  bv_omega

theorem stepsLeft_pos {s : State} (h : s.phase ≠ .idle) : 0 < stepsLeft s := by
  unfold stepsLeft
  split
  case h_1 hidle => exact absurd hidle h
  all_goals omega

/-- Every enabled step of the engine lowers the bound. -/
theorem engineTurn_lowers_stepsLeft {s t : State} (henabled : engineEnabled s = true) (h : engineTurn s = .next t) :
    stepsLeft t < stepsLeft s := by
  rcases engineTurn_cases h with ⟨hp, -⟩ | ⟨hp, -, rfl⟩ | ⟨hp, -, rfl⟩ | ⟨hp, -, -, rfl⟩ | ⟨hp, -, rfl⟩ |
    ⟨hp, hscnt, -⟩ | ⟨hp, -, rfl⟩ | ⟨hp, -, r, -, rfl⟩
  · simp [engineEnabled, hp] at henabled
  · exact stepsLeft_pos (by rcases hp with hp | hp | hp <;> simp [hp])
  · simp [stepsLeft, hp]
  · simp [stepsLeft, hp]
  · simp [stepsLeft, hp]
  · exact absurd (by simpa [engineEnabled, hp] using henabled) hscnt
  · simp [stepsLeft, hp]
  · exact stepsLeft_pos (by simp [hp])

/-- Every tick that is effective lowers the bound. -/
theorem tickTurn_lowers_stepsLeft {s : State} (hphase : s.phase = .settle) (hscnt : s.scnt ≠ 0) :
    stepsLeft (tickTurn s) < stepsLeft s := by
  have hlower := toNat_sub_one_add_one hscnt
  rw [tickTurn, if_pos ⟨hphase, hscnt⟩]
  simp only [stepsLeft, hphase]
  omega

/-- A step that is not under reset is the turn of the agent whose turn it is. -/
theorem takeTurn_of_step {s t : State} (h : step s = .next t) (hreset : ¬ UnderReset s) :
    takeTurn (nextTurn s).1 (turnTaken s s.prog) = .next t := by
  obtain ⟨u, hu, ⟨-, rfl⟩ | ⟨hline, -⟩⟩ := step_next h
  · rwa [nextTurn_snd] at hu
  · exact absurd (.inl hline) hreset

theorem step_engine_lowers_stepsLeft {s t : State} (h : step s = .next t) (hreset : ¬ UnderReset s)
    (hturn : (nextTurn s).1 = .engine) (henabled : engineEnabled s = true) : stepsLeft t < stepsLeft s := by
  have htake := takeTurn_of_step h hreset
  rw [hturn] at htake
  exact engineTurn_lowers_stepsLeft (s := turnTaken s s.prog) henabled htake

theorem step_tick_lowers_stepsLeft {s t : State} (h : step s = .next t) (hreset : ¬ UnderReset s)
    (hturn : (nextTurn s).1 = .tick) (hphase : s.phase = .settle) (hscnt : s.scnt ≠ 0) :
    stepsLeft t < stepsLeft s := by
  have htake := takeTurn_of_step h hreset
  rw [hturn] at htake
  cases htake
  exact tickTurn_lowers_stepsLeft (s := turnTaken s s.prog) hphase hscnt

/-- While BUSY no step raises the bound: what the host and the channel do leaves PHASE, SCNT and SETTLE, and the other
effects are those of useful turns. -/
theorem step_stepsLeft_le {s t : State} (hbusy : s.busy = true) (hreset : ¬ UnderReset s) (h : step s = .next t) :
    stepsLeft t ≤ stepsLeft s := by
  cases step_effect h hreset with
  | passed | appended | levelSet | erred => exact Nat.le_refl (stepsLeft s)
  | ticked hturn hphase hscnt => exact (step_tick_lowers_stepsLeft h hreset hturn hphase hscnt).le
  | foundClosed hturn hphase hclosed =>
    have henabled : engineEnabled s = true := by rcases hphase with hp | hp | hp <;> simp [engineEnabled, hp]
    exact (step_engine_lowers_stepsLeft h hreset hturn henabled).le
  | flushed hturn hphase | sent hturn hphase | received hturn hphase | completed hturn hphase =>
    exact (step_engine_lowers_stepsLeft h hreset hturn (by simp [engineEnabled, hphase])).le
  | settled hturn hphase hscnt =>
    exact (step_engine_lowers_stepsLeft h hreset hturn (by simp [engineEnabled, hphase, hscnt])).le
  | _ => exact absurd (‹s.busy = false›.symm.trans hbusy) nofun

/-- Settles O36: no step raises the bound, and the two kinds of useful turns lower it. -/
theorem usefulTurnsLowerTheBound : Obligations.UsefulTurnsLowerTheBound := fun _ _ _ hbusy hreset h =>
  ⟨step_stepsLeft_le hbusy hreset h, step_engine_lowers_stepsLeft h hreset, step_tick_lowers_stepsLeft h hreset⟩

/-! ### Every transaction completes (R132, with the continuation of log entry 2) -/

/-- A step that is not under reset leaves the level of the reset input. -/
theorem StepEffect.resetLine_eq {s t : State} (heff : StepEffect s t) : t.resetLine = s.resetLine := by
  cases heff <;> rfl

theorem StepEffect.turns_eq {s t : State} (heff : StepEffect s t) : t.turns = (nextTurn s).2.turns := by
  cases heff <;> rfl

/-- Within a transaction the engine lacks an enabled step only while it waits for SCNT. -/
theorem waiting_of_not_enabled {s : State} (hphase : s.phase ≠ .idle) (h : engineEnabled s = false) :
    s.phase = .settle ∧ s.scnt ≠ 0 := by
  cases hp : s.phase with
  | idle => exact absurd hp hphase
  | settle => exact ⟨rfl, by simpa [engineEnabled, hp] using h⟩
  | flush | send | read | parse => simp [engineEnabled, hp] at h

/-- A busy machine with no turn listed goes on with the engine, if it has an enabled step, and with an effective tick
otherwise. -/
theorem quietTurn_of_busy {s : State} (hs : Inv s) (hbusy : s.busy = true) :
    (quietTurn s = .engine ∧ engineEnabled s = true) ∨
      (quietTurn s = .tick ∧ s.phase = .settle ∧ s.scnt ≠ 0) := by
  unfold quietTurn
  cases henabled : engineEnabled s with
  | true => exact .inl ⟨rfl, rfl⟩
  | false =>
    have hwaiting := waiting_of_not_enabled (hs.busyIffPhase.1 hbusy) henabled
    exact .inr ⟨by simp [hwaiting.1], hwaiting⟩

/-- The continuation never asserts the reset input. -/
theorem not_underReset_of_quiet {s : State} (hline : s.resetLine = false) (hquiet : s.turns = []) :
    ¬ UnderReset s := by
  rw [UnderReset, nextTurn_nil hquiet, hline, quietTurn]
  split
  · simp
  · split <;> simp

/-- A busy machine with no turn listed takes a step, which lowers the bound and leaves no turn listed. -/
theorem quiet_step {s : State} (hs : Inv s) (hbusy : s.busy = true) (hline : s.resetLine = false)
    (hquiet : s.turns = []) :
    ∃ t, step s = .next t ∧ stepsLeft t < stepsLeft s ∧ t.resetLine = false ∧ t.turns = [] := by
  have hnext : nextTurn s = (quietTurn s, s) := nextTurn_nil hquiet
  have hreset := not_underReset_of_quiet hline hquiet
  have huseful := quietTurn_of_busy hs hbusy
  rcases hs.step_answers with ⟨t, h⟩ | ⟨-, a, ⟨hhost, -⟩, -⟩
  case inr =>
    rw [hnext] at hhost
    rcases huseful with ⟨hturn, -⟩ | ⟨hturn, -⟩ <;> exact absurd (hturn.symm.trans hhost) nofun
  have heff := step_effect h hreset
  refine ⟨t, h, ?_, heff.resetLine_eq.trans hline, by rw [heff.turns_eq, hnext, hquiet]⟩
  rcases huseful with ⟨hturn, henabled⟩ | ⟨hturn, hphase, hscnt⟩
  · exact step_engine_lowers_stepsLeft h hreset (by rw [hnext, hturn]) henabled
  · exact step_tick_lowers_stepsLeft h hreset (by rw [hnext, hturn]) hphase hscnt

/-- Settles O37: by induction on the bound; the step that clears BUSY leaves an outcome. -/
theorem transactionCompletes : Obligations.TransactionCompletes := by
  intro s hs hbusy hline hquiet
  induction hn : stepsLeft s using Nat.strong_induction_on generalizing s with
  | _ n ih =>
    subst hn
    obtain ⟨t, hstep, hlower, htline, htquiet⟩ := quiet_step hs hbusy hline hquiet
    cases htbusy : t.busy with
    | false =>
      have hcompleted := (busySpansOneTransaction s t hs hstep).2 hbusy htbusy
      obtain ⟨-, hdone, hkind⟩ := hcompleted.resolve_left (not_underReset_of_quiet hline hquiet)
      exact ⟨1, t, by omega, runSteps_succ hstep, htbusy, hdone, hkind⟩
    | true =>
      obtain ⟨k, u, hk, hrun, hu⟩ :=
        ih (stepsLeft t) hlower t (everyStepKeepsTheInvariant s t hs hstep) htbusy htline htquiet rfl
      exact ⟨k + 1, u, by omega, (runSteps_succ hstep).trans hrun, hu⟩

/-! ### Runs of listed turns -/

/-- `s` with the turns `xs` before all others. -/
def onTurns (xs : List Turn) (s : State) : State := { s with turns := xs ++ s.turns }

/-- Whatever turns are listed behind it, the turn `x` takes `s` to `t` in one step and leaves those turns listed. -/
def TurnRuns (x : Turn) (s t : State) : Prop := ∀ xs, step (onTurn x (onTurns xs s)) = .next (onTurns xs t)

/-- The turns of a list take `s` to `t` one after the other. -/
inductive TurnsRun : List Turn → State → State → Prop
  | nil (s : State) : TurnsRun [] s s
  | cons {x : Turn} {xs : List Turn} {s t u : State} (first : TurnRuns x s t) (others : TurnsRun xs t u) :
      TurnsRun (x :: xs) s u

theorem TurnsRun.append {xs ys : List Turn} {s t u : State} (hx : TurnsRun xs s t) (hy : TurnsRun ys t u) :
    TurnsRun (xs ++ ys) s u := by
  induction hx with
  | nil => exact hy
  | cons first _ ih => exact .cons first (ih hy)

/-- Listed turns that take `s` to `t` do so in one step each. -/
theorem TurnsRun.runSteps_eq {xs : List Turn} {s t : State} (h : TurnsRun xs s t) :
    runSteps xs.length (onTurns xs s) = .next t := by
  induction h with
  | nil => rfl
  | cons first _ ih => exact (runSteps_succ (first _)).trans ih

/-- A tick while SCNT is not 0 lowers it (`60_exceptions.md` R161). -/
theorem tickTurn_settle {s : State} (hphase : s.phase = .settle) (hscnt : s.scnt ≠ 0) :
    tickTurn s = { s with scnt := s.scnt - 1 } := if_pos ⟨hphase, hscnt⟩

theorem remoteTurn_open {s : State} (hopen : s.chOpen = true) (bytes : List Byte) :
    remoteTurn bytes s = { s with chin := s.chin ++ bytes } := if_pos hopen

/-! ### One whole transaction (R120 to R127, R131, R133) -/

/-- The outcome of parsing `raw`, delivered by the completion step (R126, R127). -/
def deliver (raw : List Byte) (s : State) : State :=
  finish (parse s.esid s.efc raw).1 (parse s.esid s.efc raw).2.1
    (BitVec.ofNat 16 (parse s.esid s.efc raw).2.2) s

/-- `s` after XFER, FLUSH, SEND, and the answer `resp` of the remote: the engine waits, SETTLE in SCNT. -/
def awaiting (resp : List Byte) (s : State) : State := { afterSend (afterFlush (acceptXfer s)) with chin := resp }

/-- Whose turns a transaction takes: XFER by the host, FLUSH, SEND, the answer, `n` ticks, SETTLE, READ, PARSE. -/
def transactionTurns (resp : List Byte) (n : Nat) : List Turn :=
  [Turn.host, Turn.engine, Turn.engine, Turn.remote resp] ++ List.replicate n Turn.tick ++
    [Turn.engine, Turn.engine, Turn.engine]

theorem transactionTurns_length (resp : List Byte) (n : Nat) : (transactionTurns resp n).length = n + 7 := by
  simp [transactionTurns]

section Transaction

variable {s : State} (hline : s.resetLine = false)
include hline

theorem turnRuns_of_takeTurn {x : Turn} {t : State} (h : ∀ xs, takeTurn x (onTurns xs s) = .next (onTurns xs t)) :
    TurnRuns x s t := fun xs => (step_onTurn (s := onTurns xs s) x hline).trans (h xs)

theorem turnRuns_xfer (hidle : s.busy = false) (hframe : s.txlen ≠ 0) :
    TurnRuns .host { s with prog := .writeReg 0 0x0040 :: s.prog } (acceptXfer s) := fun xs =>
  calc step (onAccess (.writeReg 0 0x0040) (onTurns xs s))
      = exec .xfer (onTurns xs s) := stepRunsTheDecodedCommand (onTurns xs s) _ _ hline (decode_encode .xfer)
    _ = .next (onTurns xs (acceptXfer s)) := exec_xfer_built (s := onTurns xs s) hidle hframe

theorem turnRuns_flush (hphase : s.phase = .flush) (hopen : s.chOpen = true) :
    TurnRuns .engine s (afterFlush s) :=
  turnRuns_of_takeTurn hline fun xs =>
    (engineTurn_flush (s := onTurns xs s) hphase).trans (ifOpen_open (s := onTurns xs s) hopen)

theorem turnRuns_send (hphase : s.phase = .send) (hopen : s.chOpen = true) (htxlen : s.txlen.toNat ≤ 256) :
    TurnRuns .engine s (afterSend s) :=
  turnRuns_of_takeTurn hline fun xs =>
    (engineTurn_send (s := onTurns xs s) hphase htxlen).trans (ifOpen_open (s := onTurns xs s) hopen)

theorem turnRuns_remote (hopen : s.chOpen = true) (bytes : List Byte) :
    TurnRuns (.remote bytes) s { s with chin := s.chin ++ bytes } :=
  turnRuns_of_takeTurn hline fun xs => congrArg _ (remoteTurn_open (s := onTurns xs s) hopen bytes)

theorem turnRuns_tick (hphase : s.phase = .settle) (hscnt : s.scnt ≠ 0) :
    TurnRuns .tick s { s with scnt := s.scnt - 1 } :=
  turnRuns_of_takeTurn hline fun xs => congrArg _ (tickTurn_settle (s := onTurns xs s) hphase hscnt)

theorem turnRuns_settle (hphase : s.phase = .settle) (hscnt : s.scnt = 0) :
    TurnRuns .engine s { s with phase := .read } :=
  turnRuns_of_takeTurn hline fun xs => (engineTurn_settle (s := onTurns xs s) hphase).trans (if_pos hscnt)

theorem turnRuns_read (hphase : s.phase = .read) (hopen : s.chOpen = true) : TurnRuns .engine s (afterRead s) :=
  turnRuns_of_takeTurn hline fun xs =>
    (engineTurn_read (s := onTurns xs s) hphase).trans (ifOpen_open (s := onTurns xs s) hopen)

theorem turnRuns_parse (hphase : s.phase = .parse) (hrxlen : s.rxlen.toNat ≤ 256) :
    TurnRuns .engine s (deliver (bytesOf s .rxbuf 0 s.rxlen.toNat) s) :=
  turnRuns_of_takeTurn hline fun xs => engineTurn_parse (s := onTurns xs s) hphase hrxlen rfl

/-- SCNT-many ticks bring SCNT to 0 (R124, `60_exceptions.md` R161). -/
theorem turnsRun_ticks {n : Nat} (hphase : s.phase = .settle) (hscnt : s.scnt.toNat = n) :
    TurnsRun (List.replicate n .tick) s { s with scnt := 0 } := by
  induction n generalizing s with
  | zero =>
    have hzero : s.scnt = 0 := BitVec.eq_of_toNat_eq hscnt
    rw [← hzero]
    exact .nil s
  | succ n ih =>
    have hne : s.scnt ≠ 0 := by
      intro hzero
      simp [hzero] at hscnt
    have hlower := toNat_sub_one_add_one hne
    exact .cons (turnRuns_tick hline hphase hne)
      (ih (s := { s with scnt := s.scnt - 1 }) hline hphase (by dsimp only; omega))

/-- From an idle engine with a frame built: XFER, FLUSH, SEND, and the answer of the remote (R121 to R123). -/
theorem turnsRun_request (hidle : s.busy = false) (hframe : s.txlen ≠ 0) (htxlen : s.txlen.toNat ≤ 256)
    (hopen : s.chOpen = true) (resp : List Byte) :
    TurnsRun [.host, .engine, .engine, .remote resp] { s with prog := .writeReg 0 0x0040 :: s.prog }
      (awaiting resp s) :=
  .cons (turnRuns_xfer hline hidle hframe) <|
    .cons (turnRuns_flush (s := acceptXfer s) hline rfl hopen) <|
    .cons (turnRuns_send (s := afterFlush (acceptXfer s)) hline rfl hopen htxlen) <|
    .cons (turnRuns_remote (s := afterSend (afterFlush (acceptXfer s))) hline hopen resp) <| .nil (awaiting resp s)

/-- From the end of the wait: SETTLE, READ and PARSE (R124 to R126). -/
theorem turnsRun_response (hphase : s.phase = .settle) (hscnt : s.scnt = 0) (hopen : s.chOpen = true) :
    TurnsRun [.engine, .engine, .engine] s (deliver (s.chin.take 256) (afterRead s)) := by
  have hrxlen := toNat_rxlen_afterRead s
  have hparse := turnRuns_parse (s := afterRead s) hline rfl (by rw [hrxlen]; exact Nat.min_le_left _ _)
  rw [hrxlen, bytesOf_afterRead] at hparse
  exact .cons (turnRuns_settle hline hphase hscnt) <|
    .cons (turnRuns_read (s := { s with phase := .read }) hline rfl hopen) <| .cons hparse <| .nil _

/-- The schedule takes an idle engine with a frame built to the outcome of its response, whatever CHIN held. -/
theorem turnsRun_transaction (hidle : s.busy = false) (hframe : s.txlen ≠ 0) (htxlen : s.txlen.toNat ≤ 256)
    (hopen : s.chOpen = true) (resp : List Byte) :
    TurnsRun (transactionTurns resp s.settle.toNat) { s with prog := .writeReg 0 0x0040 :: s.prog }
      (deliver (resp.take 256) (afterRead { awaiting resp s with scnt := 0 })) :=
  have hrequest := turnsRun_request hline hidle hframe htxlen hopen resp
  have hwait := turnsRun_ticks (s := awaiting resp s) hline rfl rfl
  have hresponse := turnsRun_response (s := { awaiting resp s with scnt := 0 }) hline rfl rfl hopen
  (hrequest.append hwait).append hresponse

end Transaction

/-- Settles O35: the request, the wait and the response, one after the other. -/
theorem transactionDeliversTheParsedResponse : Obligations.TransactionDeliversTheParsedResponse := by
  intro s resp hline hidle hframe htxlen hopen
  have hrun := (turnsRun_transaction hline hidle hframe htxlen hopen resp).runSteps_eq
  rw [transactionTurns_length] at hrun
  exact ⟨_, hrun, rfl, bytesOf_afterRead { awaiting resp s with scnt := 0 },
    fun _ => byteOf_afterRead_behind (s := { awaiting resp s with scnt := 0 })⟩

end Sys2Proof.Machine
end

section
/-! The system commands (`44_system.md`): NOP (R140) and CLR (R141). -/

namespace Sys2Proof.Machine

/-- NOP leaves every state as it is, and does not ask for BUSY (R140). -/
theorem exec_nop (s : State) : exec .nop s = .next s := rfl

/-- While idle CLR acknowledges (R141). -/
theorem exec_clr_idle {s : State} (hidle : s.busy = false) : exec .clr s = .next (acknowledge s) :=
  whenIdle_idle hidle

/-- Settles O6: the decoder reads back the word of NOP, and every command but NOP asks for BUSY first (R143). -/
theorem nopChangesNothing : Obligations.NopChangesNothing :=
  ⟨decode_encode .nop, exec_nop, fun _ _ => exec_of_busy⟩

/-- Settles O7: the decoder reads back the word of CLR, and the command asks for BUSY first. -/
theorem clrClearsDoneAndErr : Obligations.ClrClearsDoneAndErr :=
  ⟨decode_encode .clr, fun _ => ⟨exec_clr_idle, fun hbusy => exec_of_busy hbusy nofun⟩⟩

end Sys2Proof.Machine
end

section
/-! The byte channel and its environment (`60_exceptions.md`): the turns of the time base (R161), of the channel owner
(R163) and of the remote (R167), and who may change WIRE, CHIN and `ch_open`. -/

namespace Sys2Proof.Machine

/-! ### The turns of the environment -/

/-- Outside SETTLE, or with SCNT 0, a tick does nothing (R161). -/
theorem tickTurn_passes {s : State} (h : s.phase ≠ .settle ∨ s.scnt = 0) : tickTurn s = s :=
  if_neg fun ⟨hphase, hscnt⟩ => h.elim (absurd hphase) hscnt

/-- On a closed channel the remote has no step (R167). -/
theorem remoteTurn_closed {s : State} (hclosed : s.chOpen = false) (bytes : List Byte) : remoteTurn bytes s = s :=
  if_neg (by simp [hclosed])

/-- Settles O33: a tick in SETTLE lowers an SCNT that is not 0, so that it does not wrap; any other passes. -/
theorem tickLowersScnt : Obligations.TickLowersScnt := by
  intro s hline
  have hstep : step (onTurn .tick s) = .next (tickTurn s) := step_onTurn .tick hline
  rw [hstep]
  exact ⟨fun hphase hscnt => ⟨s.scnt - 1, toNat_sub_one_add_one hscnt, congrArg _ (tickTurn_settle hphase hscnt)⟩,
    fun h => congrArg _ (tickTurn_passes h)⟩

/-- Settles O34: the remote's turn by the level of the channel; the owner's turn is its one update. -/
theorem remoteAndOwnerTurns : Obligations.RemoteAndOwnerTurns := by
  intro s bytes level hline
  refine ⟨?remote, step_onTurn (.owner level) hline⟩
  case remote =>
    have hstep : step (onTurn (.remote bytes) s) = .next (remoteTurn bytes s) := step_onTurn (.remote bytes) hline
    rw [hstep]
    split
    case isTrue hopen => rw [remoteTurn_open hopen]
    case isFalse hclosed => rw [remoteTurn_closed (Bool.eq_false_iff.2 hclosed)]

/-! ### Who uses the channel

The reset input clears the engine and leaves the channel (`70_reset_and_hazards.md` R177), so that a step under reset
still does to the channel what its agent's turn does. -/

/-- The channel is in `t` as it is in `u`: WIRE, CHIN and the level `ch_open` (`10_state.md` R33). -/
def SameChannel (t u : State) : Prop := t.wire = u.wire ∧ t.chin = u.chin ∧ t.chOpen = u.chOpen

theorem sameChannel_resetEngine (s : State) : SameChannel (resetEngine s) s := ⟨rfl, rfl, rfl⟩

theorem sameChannel_tickTurn (s : State) : SameChannel (tickTurn s) s := by
  unfold tickTurn
  split
  case isTrue => exact ⟨rfl, rfl, rfl⟩
  case isFalse => exact ⟨rfl, rfl, rfl⟩

theorem sameChannel_resetTurn (asserted : Bool) (s : State) : SameChannel (resetTurn asserted s) s := by
  unfold resetTurn
  split
  case isTrue => exact sameChannel_resetEngine s
  case isFalse => exact ⟨rfl, rfl, rfl⟩

theorem SameChannel.trans {s t u : State} (hst : SameChannel s t) (htu : SameChannel t u) : SameChannel s u := by
  obtain ⟨hwire, hchin, hlevel⟩ := hst
  obtain ⟨hwire', hchin', hlevel'⟩ := htu
  exact ⟨hwire.trans hwire', hchin.trans hchin', hlevel.trans hlevel'⟩

/-- Whatever the level of the reset input, a turn leaves the channel as one of the listed effects does. -/
theorem takeTurn_channel {s u : State} (h : takeTurn (nextTurn s).1 (turnTaken s s.prog) = .next u) :
    ∃ v, StepEffect s v ∧ SameChannel u v := by
  have hpassed : StepEffect s (turnTaken s s.prog) := .passed s.prog s.readData s.draws
  rcases takeTurn_cases h with ⟨-, -, rfl⟩ | ⟨hx, a, rest, hprog, hacc⟩ | ⟨hx, heng⟩ | ⟨-, rfl⟩ |
    ⟨bytes, hx, rfl⟩ | ⟨level, hx, rfl⟩ | ⟨asserted, -, rfl⟩
  · exact ⟨_, hpassed, rfl, rfl, rfl⟩
  · exact ⟨u, access_effect ⟨hx, rest, hprog⟩ hacc, rfl, rfl, rfl⟩
  · exact ⟨u, engineTurn_effect hx heng, rfl, rfl, rfl⟩
  · exact ⟨_, hpassed, sameChannel_tickTurn _⟩
  · unfold remoteTurn
    split
    case isTrue hopen => exact ⟨_, .appended bytes hx hopen, rfl, rfl, rfl⟩
    case isFalse => exact ⟨_, hpassed, rfl, rfl, rfl⟩
  · exact ⟨_, .levelSet level hx, rfl, rfl, rfl⟩
  · exact ⟨_, hpassed, sameChannel_resetTurn asserted _⟩

/-- Under reset or not, a step leaves the channel as one of the listed effects does. -/
theorem step_channel {s t : State} (h : step s = .next t) : ∃ v, StepEffect s v ∧ SameChannel t v := by
  obtain ⟨u, hu, ht⟩ := step_next h
  rw [nextTurn_snd] at hu
  obtain ⟨v, heff, hsame⟩ := takeTurn_channel hu
  rcases ht with ⟨-, rfl⟩ | ⟨-, rfl⟩
  · exact ⟨v, heff, hsame⟩
  · exact ⟨v, heff, (sameChannel_resetEngine u).trans hsame⟩

/-- Settles O59: the effects that name WIRE, CHIN and `ch_open`. -/
theorem channelIsUsedByThePhaseStepsOnly : Obligations.ChannelIsUsedByThePhaseStepsOnly := by
  intro s t h
  obtain ⟨v, heff, hwire, hchin, hlevel⟩ := step_channel h
  rw [hwire, hchin, hlevel]
  refine ⟨fun hne => ?wire, fun hne => ?chin, fun hne => ?level⟩
  case wire =>
    cases heff with
    | sent hturn hphase hopen => exact ⟨hturn, hphase, hopen, rfl⟩
    | _ => exact absurd rfl hne
  case chin =>
    cases heff with
    | flushed hturn hphase hopen => exact .inl ⟨hturn, hphase, hopen, rfl⟩
    | received hturn hphase hopen => exact .inr (.inl ⟨hturn, hphase, hopen, rfl⟩)
    | appended bytes hturn hopen => exact .inr (.inr ⟨bytes, hturn, hopen, rfl⟩)
    | _ => exact absurd rfl hne
  case level =>
    cases heff with
    | levelSet level hturn => exact ⟨level, hturn, rfl⟩
    | _ => exact absurd rfl hne

/-- Settles O60: every effect that names CHIN or WIRE asks for an open channel. -/
theorem closedChannelIsUntouched : Obligations.ClosedChannelIsUntouched := by
  intro s t hclosed h
  obtain ⟨v, heff, hwire, hchin, -⟩ := step_channel h
  rw [hwire, hchin]
  cases heff with
  | appended | flushed | sent | received => exact absurd (hclosed.symm.trans ‹s.chOpen = true›) nofun
  | _ => exact ⟨rfl, rfl⟩

end Sys2Proof.Machine
end

section
/-! Reset and hazards (`70_reset_and_hazards.md`): the engine held in reset (R175), and the commands that neither read
nor write CRCR (R195). -/

namespace Sys2Proof.Machine

/-- Settles O46: a step under reset ends in a reset engine, and resetting that again changes nothing. -/
theorem heldResetLeavesNoTrace : Obligations.HeldResetLeavesNoTrace := by
  intro s t hheld h
  obtain ⟨u, rfl⟩ := step_underReset h (.inl hheld)
  exact resetEngine_idem u

/-- What a BLD command puts before the CRC does not depend on CRCR (R195): the CRC of a frame is computed from its body
alone. -/
theorem buildBody_with_crcr (s : State) (c : Word) (i : Instr) : buildBody { s with crcr := c } i = buildBody s i := by
  cases i <;> rfl

/-- Settles O15: by the cases of a command's answer. Outside the CRC unit each depends on BUSY and the command's own
operands and leaves CRCR alone, so that the rule of that case applies again with another value in CRCR. -/
theorem otherCommandsIgnoreCrcr : Obligations.OtherCommandsIgnoreCrcr := by
  intro s t c i hinit hupd h
  rcases exec_cases h with ⟨rfl, rfl⟩ | ⟨hnop, hbusy, rfl⟩ | ⟨hidle, hdone⟩
  · exact ⟨rfl, exec_nop _⟩
  · exact ⟨rfl, exec_of_busy hbusy hnop⟩
  · rcases hdone with ⟨rfl, rfl⟩ | ⟨hi, -⟩ | ⟨b, hi, -⟩ | ⟨hbuild, -, hplen, rfl⟩ | ⟨rfl, hrxlen, rfl⟩ |
      ⟨rfl, hnone, rfl⟩ | ⟨rfl, hframe, rfl⟩
    · exact ⟨rfl, exec_clr_idle hidle⟩
    · exact absurd hi hinit
    · exact absurd hi (hupd b)
    · have hbuilt := exec_build_idle (s := { s with crcr := c }) hbuild hidle hplen
      rw [buildBody_with_crcr] at hbuilt
      exact ⟨rfl, hbuilt⟩
    · exact ⟨rfl, exec_parse_idle hidle hrxlen⟩
    · exact ⟨rfl, exec_xfer_unbuilt hidle hnone⟩
    · exact ⟨rfl, exec_xfer_built hidle hframe⟩

end Sys2Proof.Machine
end
